-- ==== Sys2Proof/Word.lean ====
section
/-! DEFINITION. The byte and the level, the two plain data types every rule of the spec speaks of
(`00_scope.md` rules R9 and R11). -/

namespace Sys2Proof

/-- An unsigned 8-bit value 0..255 (R9). -/
abbrev Byte := BitVec 8

/-- A level is one bit: `false` = 0 = low, `true` = 1 = high (R9). -/
abbrev Level := Bool

/-- `a XOR b` is 1 exactly when `a ≠ b` (R11). -/
def Level.xor (a b : Level) : Level := a != b

/-- `a XNOR b` is 1 exactly when `a = b` (R11). -/
def Level.xnor (a b : Level) : Level := a == b

end Sys2Proof
end

