-- ==== Sys2Proof/Syntax.lean ====
section
/-! DEFINITION. The nine operations of the opcode table, one constructor each (`30_encoding.md` rule R98,
`45_operation_classes.md` rule R213), and the two encoding conventions. -/

namespace Sys2Proof

/-- The encoding convention: ConventionA ("Thomas/XNOR") or ConventionB (XOR), `10_state.md` rule R29. -/
inductive Convention where
  | A
  | B
  deriving DecidableEq, Repr, Inhabited

/-- One command of the command stream, with its decoded operands. Operands are kept as the command carries them
(R112): a value out of an operation's range is that operation's business, not the decoder's (R105). -/
inductive Instr where
  /-- CFGENC: `configure_encoder(convention)`, operand byte `conv8` (R99, R121). -/
  | cfgenc (conv8 : Byte)
  /-- TXINIT: `initialize(bit_rate)`, operand `rate32` (R100, R140). -/
  | txinit (rate : BitVec 32)
  /-- TXIEN: `enable_interrupt()` (R101, R141). -/
  | txien
  /-- TXIDIS: `disable_interrupt()` (R101, R142). -/
  | txidis
  /-- LOADB: `load_byte(b)` issued by the host, operand `imm8` (R102, R143). -/
  | loadb (b : Byte)
  /-- SUBMIT: `try_submit(data, num_bytes)`, operand `n8` and the payload (R103, R170). -/
  | submit (n : Byte) (data : List Byte)
  /-- GUARD: the scheduler's guard wait (R101, R206). -/
  | guard
  /-- DRAIN: one invocation of the byte-ready handler; its encoding is an event marker (R104, R188). -/
  | drain
  /-- SHIFT: the transmitter serialises one loaded byte; its encoding is an event marker (R104, R145). -/
  | shift
  deriving DecidableEq, Repr

/-- The event markers say where a DRAIN or a SHIFT happens; the other seven are host operations (R97, R104). -/
def Instr.isMarker : Instr → Bool
  | .cfgenc _ => false
  | .txinit _ => false
  | .txien => false
  | .txidis => false
  | .loadb _ => false
  | .submit _ _ => false
  | .guard => false
  | .drain => true
  | .shift => true

end Sys2Proof
end

