-- ==== Sys2Proof/WellFormed.lean ====
section
/-! DEFINITION. Which instructions the command encoding can carry. -/

namespace Sys2Proof

/-- In the command encoding the payload has exactly `n8` bytes (`30_encoding.md` rule R103, `20_memory.md` rule R81);
every other operand field holds every value of its width. -/
def Instr.WellFormed : Instr → Bool
  | .cfgenc _ => true
  | .txinit _ => true
  | .txien => true
  | .txidis => true
  | .loadb _ => true
  | .submit n data => data.length == n.toNat
  | .guard => true
  | .drain => true
  | .shift => true

end Sys2Proof
end

