-- ==== Sys2Proof/Decode.lean ====
section
/-! DEFINITION. The command encoding of `30_encoding.md` sections 2 to 5: decoder, encoder, and the opcode table's own
bit numbering. -/

namespace Sys2Proof

/-- The nine opcodes, by name (R98). -/
inductive Opcode where
  | cfgenc | txinit | txien | txidis | loadb | submit | guard | drain | shift
  deriving DecidableEq, Repr

/-- The opcode byte (R98). -/
def Opcode.byte : Opcode → Byte
  | .cfgenc => 0x01#8
  | .txinit => 0x02#8
  | .txien => 0x03#8
  | .txidis => 0x04#8
  | .loadb => 0x05#8
  | .submit => 0x06#8
  | .guard => 0x07#8
  | .drain => 0xE0#8
  | .shift => 0xE1#8

/-- The rows of the opcode map (R98). -/
def opcodes : List Opcode :=
  [.cfgenc, .txinit, .txien, .txidis, .loadb, .submit, .guard, .drain, .shift]

/-- The opcode a byte stands for; every byte not in the table is illegal (R105). -/
def opcodeOf (b : Byte) : Option Opcode := opcodes.find? fun o => o.byte == b

/-- Why a decode gives no instruction. -/
inductive DecodeError where
  /-- `pc` is at the end of the stream: the host has no further step (R109). -/
  | endOfStream
  /-- The opcode byte is not in the opcode map (R105). -/
  | illegalCommand
  /-- The operand bytes run past the end of the stream (R106). -/
  | truncatedCommand
  deriving DecidableEq, Repr

/-- `rate32`, least significant byte first: `byte1 + 256·byte2 + 65536·byte3 + 16777216·byte4` (R100). -/
def rateOfBytes (b1 b2 b3 b4 : Byte) : BitVec 32 :=
  BitVec.ofNat 32 (b1.toNat + 256 * b2.toNat + 65536 * b3.toNat + 16777216 * b4.toNat)

/-- The byte of `rate32` worth `unit`: 1, 256, 65536 or 16777216 (R100). -/
def rateByte (rate : BitVec 32) (unit : Nat) : Byte := BitVec.ofNat 8 (rate.toNat / unit)

/-- The first `k` bytes of a list and the bytes after them; `none` when the list ends sooner. -/
def splitBytes : Nat → List Byte → Option (List Byte × List Byte)
  | 0, bs => some ([], bs)
  | _ + 1, [] => none
  | k + 1, b :: bs =>
    match splitBytes k bs with
    | none => none
    | some r => some (b :: r.1, r.2)

/-- SUBMIT's operands after its opcode: `n8`, then `n8` payload bytes (R103). -/
def submitOperands (n : Byte) (rest : List Byte) : Option (Instr × List Byte) :=
  match splitBytes n.toNat rest with
  | none => none
  | some r => some (.submit n r.1, r.2)

/-- The operand bytes after the opcode byte, field by field (R99 to R104); `none` when they run past the end. -/
def decodeOperands : Opcode → List Byte → Option (Instr × List Byte)
  | .cfgenc, c :: rest => some (.cfgenc c, rest)
  | .cfgenc, [] => none
  | .txinit, b1 :: b2 :: b3 :: b4 :: rest => some (.txinit (rateOfBytes b1 b2 b3 b4), rest)
  | .txinit, _ => none
  | .txien, rest => some (.txien, rest)
  | .txidis, rest => some (.txidis, rest)
  | .loadb, b :: rest => some (.loadb b, rest)
  | .loadb, [] => none
  | .submit, n :: rest => submitOperands n rest
  | .submit, [] => none
  | .guard, rest => some (.guard, rest)
  | .drain, rest => some (.drain, rest)
  | .shift, rest => some (.shift, rest)

/-- One command from the front of a byte list, with the bytes after it (R97, R105, R106, R109). -/
def decode : List Byte → Except DecodeError (Instr × List Byte)
  | [] => .error .endOfStream
  | b :: rest =>
    match opcodeOf b with
    | none => .error .illegalCommand
    | some o =>
      match decodeOperands o rest with
      | none => .error .truncatedCommand
      | some r => .ok r

/-- The bytes of a command, from the same table (R98 to R104). -/
def encode : Instr → List Byte
  | .cfgenc c => [Opcode.byte .cfgenc, c]
  | .txinit r => [Opcode.byte .txinit, rateByte r 1, rateByte r 256, rateByte r 65536, rateByte r 16777216]
  | .txien => [Opcode.byte .txien]
  | .txidis => [Opcode.byte .txidis]
  | .loadb b => [Opcode.byte .loadb, b]
  | .submit n data => Opcode.byte .submit :: n :: data
  | .guard => [Opcode.byte .guard]
  | .drain => [Opcode.byte .drain]
  | .shift => [Opcode.byte .shift]

/-- A program's command stream: its commands one after another, no padding (R97). -/
def encodeAll (is : List Instr) : List Byte := is.flatMap encode

/-- The length of a command in bytes: known from the opcode alone but for SUBMIT, whose length is `2 + n8` (R108). -/
def Instr.size : Instr → Nat
  | .cfgenc _ => 2
  | .txinit _ => 5
  | .txien => 1
  | .txidis => 1
  | .loadb _ => 2
  | .submit n _ => 2 + n.toNat
  | .guard => 1
  | .drain => 1
  | .shift => 1

/-- The longest command: SUBMIT with `n8` = 255 (R103). -/
def maxCommandBytes : Nat := 257

/-- The `k` lowest bytes of `w`, the lowest first. -/
def wordBytes : Nat → Nat → List Byte
  | 0, _ => []
  | k + 1, w => BitVec.ofNat 8 w :: wordBytes k (w / 256)

/-- The stream bytes of a table word: bit 0 of the word is bit 0 of the first byte, the second byte is bits 15..8, and
so on; every bit from `nbits` up to the longest command is 0. -/
def tableBytes (nbits w : Nat) : List Byte := wordBytes maxCommandBytes (w % 2 ^ nbits)

/-- The instruction the decoder reads from a word numbered as spec/opcode_table.json numbers it. -/
def decodeTableWord (nbits w : Nat) : Option Instr :=
  match decode (tableBytes nbits w) with
  | .ok r => some r.1
  | .error _ => none

end Sys2Proof
end

