-- ==== Sys2Proof/Config.lean ====
section
/-! DEFINITION. The parameters the spec fixes (`00_scope.md` rules R5 and R6), the parameters it leaves open, and the
free values. An `opaque` constant has no body: nothing can be proved of its value, so a theorem holds for every one. -/

namespace Sys2Proof

/-- `CAPACITY`: bytes in the transmit buffer (R5). -/
def Config.capacity : Nat := 255

/-- `START_BYTE`: the framing byte at buffer offset 0 (R5). -/
def Config.startByte : Byte := 0x55#8

/-- `MAX_PAYLOAD` = `CAPACITY` − 1: the largest `num_bytes` a submit may carry (R5). -/
def Config.maxPayload : Nat := 254

/-- `MIN_BIT_RATE`: the least `bit_rate` accepted by initialise (R5). -/
def Config.minBitRate : Nat := 16000

/-- `DEFAULT_BIT_RATE` (R5). -/
def Config.defaultBitRate : BitVec 32 := 50000#32

/-- `GUARD_K`: numerator of the guard-interval formula (R5). -/
def Config.guardK : Nat := 2048000

/-- `TICK_STEPS`: time steps of unstated duration in one guard tick (R5). -/
def Config.tickSteps : Nat := 250

/-- `DEFAULT_CONVENTION`: ConventionA (R5). -/
def Config.defaultConvention : Convention := .A

/-- `CLK_FIRST`: level of the encoder's clock input in the first half of a bit cell (R6, D5).
Unsafe if the real clock starts low: see notes/assumptions/5.md. -/
def Config.clkFirst : Level := true

/-- `FRAME_BITS`: bits the transmitter emits per loaded byte (R6, D7). -/
def Config.frameBits : Nat := 8

/-- The parameters the spec leaves OPEN (R6): the model takes them as an argument. -/
structure Params where
  /-- `MSB_FIRST`: bit 7 of a byte is serialised first (D6). -/
  msbFirst : Bool
  /-- `TX_STAGES` − 1, so that `TX_STAGES` is an integer ≥ 1 by construction (D9). -/
  txSpare : Nat
  /-- `IDLE_SER`: level of the encoder's data input while no byte is being shifted (D8). -/
  idleSer : Level
  /-- `IDLE_CLK`: level of the encoder's clock input while no byte is being shifted (D8). -/
  idleClk : Level
  deriving DecidableEq, Repr, Inhabited

/-- `TX_STAGES`: bytes the transmitter can hold, in shift plus waiting; at least 1 (R6, R34). -/
def Params.txStages (p : Params) : Nat := p.txSpare + 1

/-- FREE: the machine's open parameters; every admitted value is possible (R6; notes/assumptions/4.md). Safe. -/
opaque Config.params : Params

/-- FREE: which of the enabled agents takes the `k`-th step of a free-mode run (R43, R73; notes/assumptions/3.md). Safe. -/
opaque Config.freeTurn : Nat → Nat

/-- FREE: what the cell's table reads as while CFGENC has not written it (R51, R129; notes/assumptions/7.md). Safe. -/
opaque Config.unwrittenTruth : BitVec 4

/-- FREE: the guard length where R205 gives none, with no bit rate set or a bit rate of 0
(`cdiv(a, b)` is given for `b > 0` only, R10; notes/assumptions/11.md). Safe. -/
opaque Config.guardUndefined : Option (BitVec 32) → Nat

end Sys2Proof
end

