-- ==== Sys2Proof/Machine/State.lean ====
section
/-! DEFINITION. The state of the machine (`10_state.md` rule R20), the codes a step can end in (`60_exceptions.md`
rules R223 and R224), and the state right after reset (`10_state.md` rule R51). -/

namespace Sys2Proof.Machine

/-- The transmit buffer `BUF` as (offset, byte) pairs: offsets strictly rising, no entry equal to what an unlisted
offset reads as (`Memory.wf`, Machine/Ops.lean). -/
abbrev Memory := List Host.Cell

/-- The fault codes of R223, complete. A step that raises one records it in `status` and is a next state (R221); the
machine then stops: every later `step` or `exec` ends in that fault. All safe: the model stops. -/
inductive Fault where
  /-- Code 1. TXINIT, when `rate < MIN_BIT_RATE`. Safe. -/
  | rateRange
  /-- Code 2. DRAIN, when `cursor > length`. Safe. -/
  | cursorInvariant
  /-- Code 3. Nobody: it belongs to a model whose `length` is wider than 8 bits (R64, R223). Safe. -/
  | lengthInvariant
  /-- Code 4. DRAIN, when `cursor < length` and `sending = false`. Safe. -/
  | staleDrain
  /-- Code 5. TXIEN, when `sending = true` and `idle_ticks < G(bit_rate)`. Safe. -/
  | guardViolation
  /-- Code 6. DRAIN, when `buf[cursor]` was never written. Safe. -/
  | unwrittenRead
  deriving DecidableEq, Repr

/-- The refusal codes of R224, complete. Recorded in `status` like a fault (R222): the spec gives the request no
meaning, and no step follows. -/
inductive RefusalCode where
  /-- Code 16. Decode: the opcode byte is not in the opcode map. -/
  | illegalCommand
  /-- Code 17. CFGENC: `conv8` not 0 or 1. -/
  | illegalOperand
  /-- Code 18. Decode: operand bytes run past the end of the stream. -/
  | truncatedCommand
  /-- Code 19. DRAIN or SHIFT marker in scripted mode: the event is not enabled there. -/
  | eventNotEnabled
  /-- Code 20. CFGENC, when `conv ≠ none`. -/
  | reconfigure
  /-- Code 21. TXINIT, when `tx_en = 1`. -/
  | reinit
  /-- Code 22. TXINIT, when `enc_on = 0`. -/
  | initOrder
  /-- Code 23. TXIEN, TXIDIS, LOADB, GUARD, when `tx_en = 0`. -/
  | txNotInitialised
  /-- Code 24. LOADB, when `dre = 0`. -/
  | txNotReady
  /-- Code 25. LOADB, when `sending = true`. -/
  | loadWhileSending
  /-- Code 26. SUBMIT, when `n > 254`. -/
  | submitTooLong
  /-- Code 27. SUBMIT, when `sending = false` and `tx_ie = 1`. -/
  | submitWhileEnabled
  deriving DecidableEq, Repr

/-- The numeric fault code (R223). -/
def Fault.code : Fault → Nat
  | .rateRange => 1
  | .cursorInvariant => 2
  | .lengthInvariant => 3
  | .staleDrain => 4
  | .guardViolation => 5
  | .unwrittenRead => 6

/-- The numeric refusal code (R224). -/
def RefusalCode.code : RefusalCode → Nat
  | .illegalCommand => 16
  | .illegalOperand => 17
  | .truncatedCommand => 18
  | .eventNotEnabled => 19
  | .reconfigure => 20
  | .reinit => 21
  | .initOrder => 22
  | .txNotInitialised => 23
  | .txNotReady => 24
  | .loadWhileSending => 25
  | .submitTooLong => 26
  | .submitWhileEnabled => 27

/-- Why a step gives no next state without a fault. All safe: the model stops. -/
inductive Refusal where
  /-- Raised by an arm of `exec` whose instruction has no meaning yet; no arm does. Safe. -/
  | notModelled (mnemonic : String)
  /-- Raised by `step` and `exec` in a state whose `status` is `refused(c)`: no step is enabled (R222). Safe. -/
  | recorded (c : RefusalCode)
  /-- Raised by `step` when the run is over: the host is at the end of the stream and, in free mode, neither DRAIN nor
  SHIFT is enabled (R109, R284). Safe. -/
  | runComplete
  /-- Raised by SUBMIT given fewer payload bytes than `num_bytes`, an operand the decoder cannot produce and the source
  does not describe (R81, `91_not_in_source.md` N25). Safe. -/
  | shortPayload
  deriving DecidableEq, Repr

/-- `status`: running, or the code of the fault or refusal that ended the run (R41). -/
inductive Status where
  | running
  | faulted (c : Fault)
  | refused (c : RefusalCode)
  deriving DecidableEq, Repr

/-- The two ways to read a run (`30_encoding.md` rule R104). -/
inductive RunMode where
  /-- Events happen only where a marker stands in the stream. -/
  | scripted
  /-- The drain and shifter agents step whenever they are enabled, in any interleaving. -/
  | free
  deriving DecidableEq, Repr

/-- The three agents that take steps (`00_scope.md` rule R7). -/
inductive Agent where
  | host
  | drain
  | shifter
  deriving DecidableEq, Repr

/-- The state tuple of R20, and after it three fields of the model's own. -/
@[ext]
structure State where
  /-- The transmit buffer (R21). -/
  buf : Memory
  /-- Occupied length of the current packet, from offset 0 (R23). -/
  length : BitVec 8
  /-- The busy flag (R24). -/
  sending : Bool
  /-- Index of the next buffer byte to load (R25). -/
  cursor : BitVec 8
  /-- What the last SUBMIT returned (R26). -/
  ok : Bool
  /-- The configured convention, or none (R29). -/
  conv : Option Convention
  /-- `ENC.TRUTH`; `none` is the reset table's own value "unwritten" (R27, R51). -/
  encTruth : Option (BitVec 4)
  /-- `ENC.LUTEN` (R28). -/
  encLuten : Bool
  /-- `ENC.PEREN` (R28). -/
  encPeren : Bool
  /-- `tx_en`: the transmitter is initialised (R30). -/
  txEn : Bool
  /-- `tx_ie`: the byte-ready interrupt enable (R31). -/
  txIe : Bool
  /-- `bit_rate`: none before TXINIT (R32). -/
  bitRate : Option (BitVec 32)
  /-- `txq`: bytes accepted and not yet serialised, oldest first (R34). -/
  txq : List Byte
  /-- `line`: the levels sent, two per data bit, in wire order (R38). -/
  line : List Level
  /-- `tx_log`: the bytes given to the load primitive, in call order (R39). -/
  txLog : List Byte
  /-- `idle_ticks`: guard ticks waited since the last completion, or since reset (R40). -/
  idleTicks : Nat
  /-- `status` (R41). -/
  status : Status
  /-- `pc`: index of the next byte of the command stream (R42). -/
  pc : Nat
  /-- MODEL'S OWN: the command stream (R97); no step writes it (R70). notes/assumptions/1.md. -/
  stream : List Byte
  /-- MODEL'S OWN: how the run is read (R104); no step writes it. notes/assumptions/2.md. -/
  mode : RunMode
  /-- MODEL'S OWN: how many free-mode turns have been given out. notes/assumptions/3.md. -/
  turn : Nat
  deriving DecidableEq, Repr

/-- The machine right after reset (R51, R260). The model's own fields: no program loaded, scripted, turn 0 (DESIGN CHOICE,
notes/assumptions/1.md to 3.md). -/
def State.reset : State where
  buf := []
  length := 0#8
  sending := false
  cursor := 0#8
  ok := false
  conv := none
  encTruth := none
  encLuten := false
  encPeren := false
  txEn := false
  txIe := false
  bitRate := none
  txq := []
  line := []
  txLog := []
  idleTicks := 0
  status := .running
  pc := 0
  stream := []
  mode := .scripted
  turn := 0

/-- The outcome of a step of this machine (R220). -/
abbrev Result := Host.Outcome State Fault Refusal

end Sys2Proof.Machine
end

