-- ==== Sys2Proof/Machine/Operands.lean ====
section
/-! DEFINITION. The operand forms: the convention byte, the payload, and the guard length computed from the bit rate. -/

namespace Sys2Proof.Machine

/-- `conv8 = 0x00` selects ConventionA, `0x01` ConventionB; any other value selects none (R92, R99). -/
def conventionOf (conv8 : Byte) : Option Convention :=
  if conv8 = 0x00#8 then some .A else if conv8 = 0x01#8 then some .B else none

/-- The numeric code of a convention (R92). -/
def conventionCode : Convention → Byte
  | .A => 0x00#8
  | .B => 0x01#8

/-- The table CFGENC loads: XNOR = 0x9 for ConventionA, XOR = 0x6 for ConventionB (R91, R121). -/
def conventionTruth : Convention → BitVec 4
  | .A => 0x9#4
  | .B => 0x6#4

/-- The first `n` bytes of the payload; the bytes beyond are ignored (R81, R170). -/
def payloadBytes (n : Byte) (data : List Byte) : List Byte := data.take n.toNat

/-- `cdiv(a, b)`, the ceiling of `a / b` for `b > 0` (R10). -/
def cdiv (a b : Nat) : Nat := (a + b - 1) / b

/-- `G(bit_rate) = cdiv(GUARD_K, bit_rate)` guard ticks (R205); a free value where the rule gives no number. -/
def guardTicks : Option (BitVec 32) → Nat
  | none => Config.guardUndefined none
  | some r => if r = 0#32 then Config.guardUndefined (some r) else cdiv Config.guardK r.toNat

/-- The guard interval in time steps of unstated duration: one tick is `TICK_STEPS` of them (R5, R205). -/
def guardTimeSteps (rate : Option (BitVec 32)) : Nat := guardTicks rate * Config.tickSteps

end Sys2Proof.Machine
end

