-- ==== Sys2Proof/Machine/Ops.lean ====
section
/-! DEFINITION. The named operations over the buffer and the registers, and how a step ends: by a next state, by
recording a fault or a refusal (`60_exceptions.md` rules R220 to R222), or by stopping. -/

namespace Sys2Proof.Machine

/-! ### The transmit buffer -/

/-- What an unlisted cell reads as: the reset contents, 0x55 at offset 0 and no value elsewhere (R21, R22, R51, R69). -/
def Memory.resetByte (a : Nat) : Option Byte := if a = 0 then some Config.startByte else none

/-- The entry listed for an offset, if any. -/
def Memory.lookup : Memory → Nat → Option Byte
  | [], _ => none
  | (x, b) :: m, a => if x = a then some b else Memory.lookup m a

/-- `buf[a]`: the byte of a written cell, `none` for an unwritten one (R21). -/
def Memory.read (m : Memory) (a : Nat) : Option Byte :=
  match m.lookup a with
  | some b => some b
  | none => Memory.resetByte a

/-- The list without its entries for an offset. -/
def Memory.erase (m : Memory) (a : Nat) : Memory := m.filter fun c => c.1 != a

/-- The list with one more entry, before the first entry of a higher offset. -/
def Memory.insert (a : Nat) (b : Byte) : Memory → Memory
  | [] => [(a, b)]
  | (x, y) :: m => if a < x then (a, b) :: (x, y) :: m else (x, y) :: Memory.insert a b m

/-- `buf[a] <- b`; writing what the unlisted cell reads as removes the entry. Every caller keeps `a < CAPACITY` (R64). -/
def Memory.write (m : Memory) (a : Nat) (b : Byte) : Memory :=
  if Memory.resetByte a = some b then m.erase a else Memory.insert a b (m.erase a)

/-- `buf[a + i] <- bs[i]` in rising `i` (R216). -/
def Memory.writeFrom (m : Memory) (a : Nat) : List Byte → Memory
  | [] => m
  | b :: bs => Memory.writeFrom (m.write a b) (a + 1) bs

/-- The canonical form: offsets strictly rising and below `CAPACITY`, no entry equal to what an unlisted cell reads as. -/
abbrev Memory.wf (m : Memory) : Prop :=
  (m.map Prod.fst).Pairwise (· < ·) ∧
    ∀ c ∈ m, c.1 < Config.capacity ∧ Memory.resetByte c.1 ≠ some c.2

/-! ### The registers -/

/-- `status <- st`. -/
def State.setStatus (s : State) (st : Status) : State := { s with status := st }

/-- `pc <- pc + n` (R10, R108). -/
def State.advance (s : State) (n : Nat) : State := { s with pc := s.pc + n }

/-- One free-mode turn has been given out. -/
def State.nextTurn (s : State) : State := { s with turn := s.turn + 1 }

/-- CFGENC's writes: the table, both enables, the convention (R121). -/
def State.configure (s : State) (c : Convention) (truth : BitVec 4) : State :=
  { s with encTruth := some truth, encLuten := true, encPeren := true, conv := some c }

/-- TXINIT's writes: the rate, the transmit path on, the byte-ready interrupt off (R140). -/
def State.initialise (s : State) (rate : BitVec 32) : State :=
  { s with bitRate := some rate, txEn := true, txIe := false }

/-- `tx_ie <- b` (R141, R142). -/
def State.setTxIe (s : State) (b : Bool) : State := { s with txIe := b }

/-- The load primitive `tx_load(b)`: one byte into the transmitter, and into the log (R144). -/
def State.txLoad (s : State) (b : Byte) : State :=
  { s with txq := s.txq ++ [b], txLog := s.txLog ++ [b] }

/-- The shifter's writes: `levels` onto the line, `rest` left in the transmitter (R145). -/
def State.shiftOut (s : State) (levels : List Level) (rest : List Byte) : State :=
  { s with line := s.line ++ levels, txq := rest }

/-- `ok <- b` (R171). -/
def State.setOk (s : State) (b : Bool) : State := { s with ok := b }

/-- The accepted path of SUBMIT but for `ok`: payload from offset 1, then the length, then the flag (R75, R170). -/
def State.storePacket (s : State) (n : Byte) (bytes : List Byte) : State :=
  { s with buf := s.buf.writeFrom 1 bytes, length := n + 1#8, sending := true }

/-- `idle_ticks <- idle_ticks + n` (R206). -/
def State.addIdle (s : State) (n : Nat) : State := { s with idleTicks := s.idleTicks + n }

/-- `cursor <- c` (R188 row 1). -/
def State.setCursor (s : State) (c : BitVec 8) : State := { s with cursor := c }

/-- DRAIN's completion: cursor, interrupt enable, flag, and the guard bookkeeping (R75, R188 row 2, R190). -/
def State.completePacket (s : State) : State :=
  { s with cursor := 0#8, txIe := false, sending := false, idleTicks := 0 }

/-- A marker is part of the stream in scripted mode only: "(scripted mode only) pc <- pc + 1" (R145, R188). -/
def State.passMarker (s : State) : State :=
  match s.mode with
  | .scripted => s.advance 1
  | .free => s

/-! ### How a step ends -/

/-- `require status = running` at the head of every operation: otherwise no step is enabled, and the recorded code is
the outcome (R41, R221, R222). -/
def ifRunning (s : State) (k : Result) : Result :=
  match s.status with
  | .running => k
  | .faulted c => .fault c
  | .refused c => .refused (.recorded c)

/-- `raise Fault(c)`: `status <- faulted(c)` and nothing else changes, `pc` included (R221). notes/assumptions/9.md. -/
def takeFault (c : Fault) (s : State) : Result := .next (s.setStatus (.faulted c))

/-- `refuse(c)`: `status <- refused(c)` and nothing else changes (R222). notes/assumptions/9.md. -/
def takeRefusal (c : RefusalCode) (s : State) : Result := .next (s.setStatus (.refused c))

/-- Taking the byte-ready interrupt saves and changes no state: no vector, no mode, no stack (R232). -/
def enterHandler (s : State) : State := s

/-- Return from the handler is implicit at the end of the DRAIN step; the interrupt enable is what the step left in
`tx_ie` (R234). -/
def leaveHandler (r : Result) : Result := r

/-- An event at a point where it is not enabled: a marker is refused in scripted mode; in free mode it simply does not
happen (R104, R145, R188). -/
def eventNotEnabled (s : State) : Result :=
  match s.mode with
  | .scripted => takeRefusal .eventNotEnabled s
  | .free => .next s

end Sys2Proof.Machine
end

