-- ==== Sys2Proof/Machine/Buffer.lean ====
section
/-! DEFINITION. The transmit buffer's one operation, SUBMIT (`42_transmit_buffer.md`). -/

namespace Sys2Proof.Machine

/-- SUBMIT (R170). The operand condition `|data| ≥ n` (R81) comes before any check of the operation. -/
def execSubmit (n : Byte) (data : List Byte) (s : State) : Result :=
  ifRunning s <|
    if data.length < n.toNat then .refused .shortPayload
    else if Config.maxPayload < n.toNat then takeRefusal .submitTooLong s
    else if s.sending then .next ((s.setOk false).advance (2 + n.toNat))
    else if s.txIe then takeRefusal .submitWhileEnabled s
    else .next (((s.storePacket n (payloadBytes n data)).setOk true).advance (2 + n.toNat))

end Sys2Proof.Machine
end

