-- ==== Sys2Proof/Machine/Flags.lean ====
section
/-! DEFINITION. The derived signals (`10_state.md` rules R28, R36, R37): functions of the state, not stored. They are
given the open parameters `p` as an argument. -/

namespace Sys2Proof.Machine

/-- `enc_on = ENC.LUTEN AND ENC.PEREN`: the encoder's output is defined (R28). -/
def encOn (s : State) : Bool := s.encLuten && s.encPeren

/-- `dre = tx_en AND (|txq| < TX_STAGES)`: byte-ready (R36). -/
def dre (p : Params) (s : State) : Bool := s.txEn && decide (s.txq.length < p.txStages)

/-- `irq = dre AND tx_ie`: the byte-ready interrupt request, a level (R37, R228). -/
def irq (p : Params) (s : State) : Bool := s.txIe && dre p s

/-- `busy = sending` (R37). -/
def busy (s : State) : Bool := s.sending

end Sys2Proof.Machine
end

