-- ==== Sys2Proof/Machine/Drain.lean ====
section
/-! DEFINITION. The transmission state machine's one step, DRAIN (`43_drain_state_machine.md`). -/

namespace Sys2Proof.Machine

/-- The rows of the transition table, chosen by comparing `cursor` and `length` only (R188, C8). -/
def drainEvent (s : State) : Result :=
  if s.cursor < s.length then
    if s.sending = false then takeFault .staleDrain s
    else
      match s.buf.read s.cursor.toNat with
      | none => takeFault .unwrittenRead s
      | some b => .next ((s.txLoad b).setCursor (s.cursor + 1#8)).passMarker
  else if s.cursor = s.length then .next s.completePacket.passMarker
  else takeFault .cursorInvariant s

/-- DRAIN for given open parameters: enabled exactly when `irq = 1` (R187, R188). -/
def drainWith (p : Params) (s : State) : Result :=
  ifRunning s <|
    if irq p s then leaveHandler (drainEvent (enterHandler s)) else eventNotEnabled s

/-- DRAIN (R188). -/
def execDrain (s : State) : Result := drainWith Config.params s

end Sys2Proof.Machine
end

