-- ==== Sys2Proof/Machine/Scheduler.lean ====
section
/-! DEFINITION. The packet scheduler's one operation, GUARD, and the host protocol of its main loop
(`44_packet_scheduler.md`). -/

namespace Sys2Proof.Machine

/-- GUARD (R206). -/
def execGuard (s : State) : Result :=
  ifRunning s <|
    if s.txEn = false then takeRefusal .txNotInitialised s
    else .next ((s.addIdle (guardTicks s.bitRate)).advance 1)

/-- Where the host stands in its main loop (R207): the operation it issues next. -/
inductive HostPhase where
  /-- `CFGENC convention`, once, at start-up. -/
  | configure
  /-- `TXINIT bit_rate`, once, at start-up. -/
  | initialise
  /-- `SUBMIT example_payload`, repeated until `ok = 1`. -/
  | submit
  /-- GUARD, when `tx_ie = 0` after an accepted submit. -/
  | wait
  /-- TXIEN, after the guard interval. -/
  | enable
  deriving DecidableEq, Repr

/-- What the host's main loop is built with (R207): its convention, its bit rate, its payload. -/
structure HostPlan where
  convention : Convention
  rate : BitVec 32
  payload : List Byte
  deriving DecidableEq, Repr

/-- The plan with the source's defaults, for a payload (R5). -/
def HostPlan.default (payload : List Byte) : HostPlan :=
  { convention := Config.defaultConvention, rate := Config.defaultBitRate, payload := payload }

/-- The SUBMIT of a payload: `n8` is its number of bytes (R103). A payload longer than the byte `n8` can say is given as
255, which SUBMIT refuses (R170); it is never wrapped. -/
def submitOf (payload : List Byte) : Instr := .submit (BitVec.ofNat 8 (min payload.length 255)) payload

/-- The operation the host issues in a phase (R207). -/
def HostPlan.operation (h : HostPlan) : HostPhase → Instr
  | .configure => .cfgenc (conventionCode h.convention)
  | .initialise => .txinit h.rate
  | .submit => submitOf h.payload
  | .wait => .guard
  | .enable => .txien

/-- The phase after an operation that left the state `s`: poll until `ok = 1`, then GUARD and TXIEN if the interrupt is
disabled (R207). -/
def nextPhase (s : State) : HostPhase → HostPhase
  | .configure => .initialise
  | .initialise => .submit
  | .submit => if s.ok ∧ s.txIe = false then .wait else .submit
  | .wait => .enable
  | .enable => .submit

end Sys2Proof.Machine
end

