-- ==== Sys2Proof/Machine/Encoder.lean ====
section
/-! DEFINITION. The line encoder (`40_line_encoder.md`): the cell's output, the Manchester functions, and CFGENC. -/

namespace Sys2Proof.Machine

/-- `lut(t, ser, clk) = t[(clk << 1) | ser]` (R91, R120). -/
def lut (t : BitVec 4) (ser clk : Level) : Level := t.getLsbD ((clk.toNat <<< 1) ||| ser.toNat)

/-- The line during the two halves of a bit cell (R93, R123). -/
def manchBit (t : BitVec 4) (d : Level) : List Level :=
  [lut t d Config.clkFirst, lut t d (!Config.clkFirst)]

/-- The bits of a byte in wire order: bit 7 first if `MSB_FIRST`, else bit 0 first (R94). -/
def wireBits (p : Params) (b : Byte) : List Level :=
  (List.range Config.frameBits).map fun i =>
    b.getLsbD (if p.msbFirst then Config.frameBits - 1 - i else i)

/-- The 16 levels of one byte frame (R94, R124). -/
def manchByte (p : Params) (t : BitVec 4) (b : Byte) : List Level :=
  (wireBits p b).flatMap (manchBit t)

/-- The levels of a list of bytes, in order (R125). -/
def manchPacket (p : Params) (t : BitVec 4) (bs : List Byte) : List Level :=
  bs.flatMap (manchByte p t)

/-- The table the cell uses; before CFGENC has written it, a free value (R129; notes/assumptions/7.md). -/
def truthOf (s : State) : BitVec 4 := s.encTruth.getD Config.unwrittenTruth

/-- The encoder's output at every instant; it has no value while `enc_on = 0` (R120, R129). -/
def encOut (s : State) (ser clk : Level) : Option Level :=
  if encOn s then some (lut (truthOf s) ser clk) else none

/-- The level of the line while nothing is shifted; `line` does not record it (R149). -/
def idleLevel (p : Params) (s : State) : Option Level := encOut s p.idleSer p.idleClk

/-- CFGENC (R121). -/
def execCfgenc (conv8 : Byte) (s : State) : Result :=
  ifRunning s <|
    match conventionOf conv8 with
    | none => takeRefusal .illegalOperand s
    | some c =>
      if s.conv = none then .next ((s.configure c (conventionTruth c)).advance 2)
      else takeRefusal .reconfigure s

end Sys2Proof.Machine
end

