-- ==== Sys2Proof/Machine/Transmitter.lean ====
section
/-! DEFINITION. The serial transmitter (`41_serial_transmitter.md`): TXINIT, TXIEN, TXIDIS, LOADB, SHIFT. What depends
on an open parameter is written for every `p : Params`; the instruction takes the machine's own, `Config.params`. -/

namespace Sys2Proof.Machine

/-- TXINIT (R140). -/
def execTxinit (rate : BitVec 32) (s : State) : Result :=
  ifRunning s <|
    if encOn s = false then takeRefusal .initOrder s
    else if s.txEn then takeRefusal .reinit s
    else if rate.toNat < Config.minBitRate then takeFault .rateRange s
    else .next ((s.initialise rate).advance 5)

/-- TXIEN (R141). -/
def execTxien (s : State) : Result :=
  ifRunning s <|
    if s.txEn = false then takeRefusal .txNotInitialised s
    else if s.sending ∧ s.idleTicks < guardTicks s.bitRate then takeFault .guardViolation s
    else .next ((s.setTxIe true).advance 1)

/-- TXIDIS (R142). -/
def execTxidis (s : State) : Result :=
  ifRunning s <|
    if s.txEn = false then takeRefusal .txNotInitialised s
    else .next ((s.setTxIe false).advance 1)

/-- LOADB for given open parameters (R143). -/
def loadbWith (p : Params) (b : Byte) (s : State) : Result :=
  ifRunning s <|
    if s.txEn = false then takeRefusal .txNotInitialised s
    else if s.sending then takeRefusal .loadWhileSending s
    else if dre p s = false then takeRefusal .txNotReady s
    else .next ((s.txLoad b).advance 2)

/-- LOADB (R143). -/
def execLoadb (b : Byte) (s : State) : Result := loadbWith Config.params b s

/-- SHIFT is enabled when `tx_en = 1` and `txq` is not empty; `status = running` is `ifRunning`'s part (R145). -/
def shiftEnabled (s : State) : Bool := s.txEn && !s.txq.isEmpty

/-- The shifter's step: the head of `txq` leaves through the encoder (R145). -/
def shiftEvent (p : Params) (s : State) : Result :=
  match s.txq with
  | [] => eventNotEnabled s
  | b :: rest => .next (s.shiftOut (manchByte p (truthOf s) b) rest).passMarker

/-- SHIFT for given open parameters (R145). -/
def shiftWith (p : Params) (s : State) : Result :=
  ifRunning s <| if shiftEnabled s then shiftEvent p s else eventNotEnabled s

/-- SHIFT (R145). -/
def execShift (s : State) : Result := shiftWith Config.params s

end Sys2Proof.Machine
end

