-- ==== Sys2Proof/Machine/Dispatch.lean ====
section
/-! DEFINITION. One arm per operation of the opcode table (`45_operation_classes.md` rule R213). -/

namespace Sys2Proof.Machine

def exec (i : Instr) (s : State) : Host.Outcome State Fault Refusal :=
  match i with
  | .cfgenc conv8 => Sys2Proof.Machine.execCfgenc conv8 s
  | .txinit rate => Sys2Proof.Machine.execTxinit rate s
  | .txien => Sys2Proof.Machine.execTxien s
  | .txidis => Sys2Proof.Machine.execTxidis s
  | .loadb b => Sys2Proof.Machine.execLoadb b s
  | .submit n data => Sys2Proof.Machine.execSubmit n data s
  | .guard => Sys2Proof.Machine.execGuard s
  | .drain => Sys2Proof.Machine.execDrain s
  | .shift => Sys2Proof.Machine.execShift s

end Sys2Proof.Machine
end

