-- ==== Sys2Proof/Machine/Agents.lean ====
section
/-! DEFINITION. The three agents: fetching the host's next command, one step of each agent, which agents may step, and
which one does in free mode (`20_memory.md` rule R73, `30_encoding.md` rules R97, R104, R109). -/

namespace Sys2Proof.Machine

/-- The host's decode at `pc` (R97). -/
def fetch (s : State) : Except DecodeError (Instr × List Byte) := decode (s.stream.drop s.pc)

/-- The host meets a command. In free mode the stream's markers are deleted: the host passes over one, and the event
happens by itself elsewhere (R104; notes/assumptions/14.md). -/
def hostCommand (i : Instr) (s : State) : Result :=
  match s.mode with
  | .scripted => exec i s
  | .free => if i.isMarker then .next (s.advance 1) else exec i s

/-- One step of the host agent. Decode failures come before any check of an operation (R105, R106, R231). -/
def hostStep (s : State) : Result :=
  match fetch s with
  | .ok r => hostCommand r.1 s
  | .error .endOfStream => .refused .runComplete
  | .error .illegalCommand => takeRefusal .illegalCommand s
  | .error .truncatedCommand => takeRefusal .truncatedCommand s

/-- One atomic step of an agent (R8, R73). -/
def agentStep (a : Agent) (s : State) : Result :=
  match a with
  | .host => ifRunning s (hostStep s)
  | .drain => exec .drain s
  | .shifter => exec .shift s

/-- Whether an agent of a running machine may step in free mode: the host while the stream is not at its end, the drain
agent while `irq = 1`, the shifter while a byte is loaded (R73, R109, R145, R187). -/
def agentEnabled (p : Params) (s : State) : Agent → Bool
  | .host => decide (s.pc < s.stream.length)
  | .drain => irq p s
  | .shifter => shiftEnabled s

/-- The agents that may step, in a fixed listing order that carries no priority (R230). -/
def enabledAgents (p : Params) (s : State) : List Agent :=
  [Agent.host, Agent.drain, Agent.shifter].filter fun a => agentEnabled p s a

/-- The member of a non-empty list that a choice number picks; every member is picked by some number. -/
def pickAgent (k : Nat) (a : Agent) (as : List Agent) : Agent :=
  (a :: as).getD (k % (as.length + 1)) a

/-- The agent that takes the next free step: any enabled one, by a free value (R43, R73; notes/assumptions/3.md). -/
def scheduled (s : State) : Option Agent :=
  match enabledAgents Config.params s with
  | [] => none
  | a :: as => some (pickAgent (Config.freeTurn s.turn) a as)

/-- One step of a free-mode run: an enabled agent takes it (R73), and none being enabled the run is over (R284). An enabled
agent is always taken, a command stream is finite (R97) and every step uses some of what is left to do up, so no enabled
event is passed over for ever: DRAIN and SHIFT are weakly fair (R148, R199, R283; notes/assumptions/17.md). -/
def freeStep (s : State) : Result :=
  match scheduled s with
  | none => .refused .runComplete
  | some a => agentStep a s.nextTurn

/-- One step of the machine, in the mode the run is read in (R104). -/
def machineStep (s : State) : Result :=
  ifRunning s <|
    match s.mode with
    | .scripted => hostStep s
    | .free => freeStep s

/-- `k` zero bytes, and the bytes of a list, laid out so that the list starts at index `k` of the result, the first `k`
bytes of `old` kept. -/
def placeAt : Nat → List Byte → List Byte → List Byte
  | 0, _, bs => bs
  | k + 1, [], bs => 0#8 :: placeAt k [] bs
  | k + 1, o :: old, bs => o :: placeAt k old bs

/-- The host agent following its protocol of R207 instead of a stream: one operation of its main loop. -/
def protocolStep (h : HostPlan) (ph : HostPhase) (s : State) :
    Host.Outcome (HostPhase × State) Fault Refusal :=
  match exec (h.operation ph) s with
  | .next t => .next (nextPhase t ph, t)
  | .fault c => .fault c
  | .refused c => .refused c

/-- Several operations or events one after another, stopping where one stops. -/
def execAll : List Instr → State → Result
  | [], s => .next s
  | i :: is, s =>
    match exec i s with
    | .next t => execAll is t
    | .fault c => .fault c
    | .refused c => .refused c

/-- Several steps of named agents one after another: a run of free mode under a schedule (R73). -/
def agentRun : List Agent → State → Result
  | [], s => .next s
  | a :: as, s =>
    match agentStep a s with
    | .next t => agentRun as t
    | .fault c => .fault c
    | .refused c => .refused c

end Sys2Proof.Machine
end

