-- ==== Sys2Proof/Machine/Step.lean ====
section
/-! DEFINITION. The step of the machine, and where its next instruction is fetched from. -/

namespace Sys2Proof.Machine

/-- One step (`Machine/Agents.lean`, `machineStep`). -/
def step (s : State) : Host.Outcome State Fault Refusal := machineStep s

/-- `s` with a table word's bytes placed in the command stream at `pc`, and the run read in scripted mode, so that the
very next step of a running machine decodes and runs them. notes/assumptions/1.md. -/
def State.withFetchWord (s : State) (nbits w : Nat) : State :=
  { s with stream := placeAt s.pc s.stream (tableBytes nbits w), mode := .scripted }

end Sys2Proof.Machine
end

