-- ==== Sys2Proof/Machine/Assembler.lean ====
section
/-! DEFINITION. The assembler of the command stream: lines and pseudo-operations (`30_encoding.md` rules R110, R111). A
notation for writing streams down; no step of the machine uses it. -/

namespace Sys2Proof.Machine

/-- One line of assembler: a command of R110 or a pseudo-operation of R111. -/
inductive AsmLine where
  | cfgenc (c : Convention)
  | txinit (rate : BitVec 32)
  | txien
  | txidis
  | loadb (b : Byte)
  | submit (payload : List Byte)
  | guard
  | drain
  | shift
  | pump (k : Nat)
  | send (payload : List Byte)
  | xmit (payload : List Byte)
  deriving DecidableEq, Repr

/-- `PUMP k`: `DRAIN SHIFT`, `k` times (R111). -/
def pumpOps : Nat → List Instr
  | 0 => []
  | k + 1 => .drain :: .shift :: pumpOps k

/-- `SEND payload`: one iteration of the scheduler loop when the submit is accepted (R111). -/
def sendOps (payload : List Byte) : List Instr := [submitOf payload, .guard, .txien]

/-- `XMIT payload`: a whole packet, scripted, through a transmitter with `TX_STAGES = 1` (R111). -/
def xmitOps (payload : List Byte) : List Instr := sendOps payload ++ pumpOps (payload.length + 1) ++ [.drain]

/-- The commands of a line (R110, R111). -/
def AsmLine.expand : AsmLine → List Instr
  | .cfgenc c => [.cfgenc (conventionCode c)]
  | .txinit r => [.txinit r]
  | .txien => [.txien]
  | .txidis => [.txidis]
  | .loadb b => [.loadb b]
  | .submit payload => [submitOf payload]
  | .guard => [.guard]
  | .drain => [.drain]
  | .shift => [.shift]
  | .pump k => pumpOps k
  | .send payload => sendOps payload
  | .xmit payload => xmitOps payload

/-- The command stream of a program (R97). -/
def assemble (ls : List AsmLine) : List Byte := encodeAll (ls.flatMap AsmLine.expand)

/-! ### The text of a line -/

/-- The pieces of a line: words, quoted characters, quoted texts, commas. -/
inductive Token where
  | word (cs : List Char)
  | quoted (c : Char)
  | text (cs : List Char)
  | comma
  deriving DecidableEq, Repr

/-- Whether the scan is outside a text, with the word read so far, or inside one; both held backwards. -/
inductive Scan where
  | plain (word : List Char)
  | text (read : List Char)

/-- The quote of a character operand. -/
def quoteChar : Char := Char.ofNat 39

/-- The quote of a text operand. -/
def textChar : Char := Char.ofNat 34

/-- A word read backwards, before the tokens after it. -/
def withWord (w : List Char) (ts : List Token) : List Token :=
  match w with
  | [] => ts
  | _ :: _ => .word w.reverse :: ts

/-- A line cut into tokens; a semicolon outside a text starts a comment (R110). -/
def scan : List Char → Scan → Option (List Token)
  | [], .plain w => some (withWord w [])
  | [], .text _ => none
  | c :: cs, .text r =>
    if c = textChar then (scan cs (.plain [])).map (.text r.reverse :: ·) else scan cs (.text (c :: r))
  | c :: d :: e :: cs, .plain w =>
    if c = quoteChar ∧ e = quoteChar then (scan cs (.plain [])).map fun ts => withWord w (.quoted d :: ts)
    else if c = ';' then some (withWord w [])
    else if c = ',' then (scan (d :: e :: cs) (.plain [])).map fun ts => withWord w (.comma :: ts)
    else if c = ' ' then (scan (d :: e :: cs) (.plain [])).map (withWord w)
    else if c = textChar then (scan (d :: e :: cs) (.text [])).map (withWord w)
    else scan (d :: e :: cs) (.plain (c :: w))
  | c :: cs, .plain w =>
    if c = ';' then some (withWord w [])
    else if c = ',' then (scan cs (.plain [])).map fun ts => withWord w (.comma :: ts)
    else if c = ' ' then (scan cs (.plain [])).map (withWord w)
    else if c = textChar then (scan cs (.text [])).map (withWord w)
    else scan cs (.plain (c :: w))

/-- The value of a hexadecimal digit. -/
def digitValue (c : Char) : Option Nat :=
  if '0' ≤ c ∧ c ≤ '9' then some (c.toNat - 48)
  else if 'A' ≤ c ∧ c ≤ 'F' then some (c.toNat - 55)
  else if 'a' ≤ c ∧ c ≤ 'f' then some (c.toNat - 87)
  else none

/-- The digits of a number in a base, after those that make `n`; underscores are separators (R9). -/
def digitsFrom (base n : Nat) : List Char → Option Nat
  | [] => some n
  | c :: cs =>
    if c = '_' then digitsFrom base n cs
    else
      match digitValue c with
      | none => none
      | some v => if v < base then digitsFrom base (base * n + v) cs else none

/-- A decimal number, or a hexadecimal one after `0x` (R9, R110). -/
def number : List Char → Option Nat
  | [] => none
  | '0' :: 'x' :: c :: cs => digitsFrom 16 0 (c :: cs)
  | c :: cs => digitsFrom 10 0 (c :: cs)

/-- A number that a byte holds. -/
def byteOfNat (n : Nat) : Option Byte := if n < 256 then some (BitVec.ofNat 8 n) else none

/-- The ASCII byte of a character (R110). -/
def asciiByte (c : Char) : Option Byte := if c.toNat < 128 then some (BitVec.ofNat 8 c.toNat) else none

/-- A byte operand: decimal, hexadecimal, or a quoted ASCII character (R110). -/
def byteOperand : Token → Option Byte
  | .word cs => (number cs).bind byteOfNat
  | .quoted c => asciiByte c
  | .text _ => none
  | .comma => none

/-- The bytes of a text, or `none` if one is not ASCII. -/
def textBytes : List Char → Option (List Byte)
  | [] => some []
  | c :: cs => (asciiByte c).bind fun b => (textBytes cs).map (b :: ·)

/-- Bytes with commas between them, after a first byte. -/
def moreBytes : List Token → Option (List Byte)
  | [] => some []
  | .comma :: t :: ts => (byteOperand t).bind fun b => (moreBytes ts).map (b :: ·)
  | _ => none

/-- The payload of SUBMIT, SEND, XMIT: nothing, a text, or bytes with commas between them (R110). -/
def payloadOperand : List Token → Option (List Byte)
  | [] => some []
  | [.text cs] => textBytes cs
  | t :: ts => (byteOperand t).bind fun b => (moreBytes ts).map (b :: ·)

/-- A rate that `rate32` holds (R100). -/
def rateOperand (n : Nat) : Option (BitVec 32) := if n < 2 ^ 32 then some (BitVec.ofNat 32 n) else none

/-- A line's tokens as a command or pseudo-operation (R110, R111). -/
def lineOf : List Token → Option AsmLine
  | .word ['C', 'F', 'G', 'E', 'N', 'C'] :: ts =>
    match ts with
    | [.word ['A']] => some (.cfgenc .A)
    | [.word ['B']] => some (.cfgenc .B)
    | _ => none
  | .word ['T', 'X', 'I', 'N', 'I', 'T'] :: ts =>
    match ts with
    | [.word cs] => ((number cs).bind rateOperand).map .txinit
    | _ => none
  | [.word ['T', 'X', 'I', 'E', 'N']] => some .txien
  | [.word ['T', 'X', 'I', 'D', 'I', 'S']] => some .txidis
  | .word ['L', 'O', 'A', 'D', 'B'] :: ts =>
    match ts with
    | [t] => (byteOperand t).map .loadb
    | _ => none
  | .word ['S', 'U', 'B', 'M', 'I', 'T'] :: ts => (payloadOperand ts).map .submit
  | [.word ['G', 'U', 'A', 'R', 'D']] => some .guard
  | [.word ['D', 'R', 'A', 'I', 'N']] => some .drain
  | [.word ['S', 'H', 'I', 'F', 'T']] => some .shift
  | .word ['P', 'U', 'M', 'P'] :: ts =>
    match ts with
    | [] => some (.pump 1)
    | [.word cs] => (number cs).map .pump
    | _ => none
  | .word ['S', 'E', 'N', 'D'] :: ts => (payloadOperand ts).map .send
  | .word ['X', 'M', 'I', 'T'] :: ts => (payloadOperand ts).map .xmit
  | _ => none

/-- One non-empty line of assembler text. -/
def parseLine (cs : List Char) : Option AsmLine := (scan cs (.plain [])).bind lineOf

end Sys2Proof.Machine
end

