-- ==== Sys2Proof/Safety.lean ====
section
/-! DEFINITION. What counts as a safe run, in the terms the statements use: the named states, the invariants of
`10_state.md` rule R52 and `41_serial_transmitter.md` rule R146, and a clean end. -/

namespace Sys2Proof.Machine

/-- The names of the four combinations of `(sending, tx_ie)` (`43_drain_state_machine.md` rule R186). -/
inductive StateName where
  | idle
  | armed
  | draining
  | spurious
  deriving DecidableEq, Repr

/-- The name of a state: a predicate on `sending` and `tx_ie`, not a stored variable (R185, R186). -/
def stateName (s : State) : StateName :=
  if s.sending then (if s.txIe then .draining else .armed) else (if s.txIe then .spurious else .idle)

/-- The items of R52 that speak of one state, the canonical form of the buffer, and what R209 keeps of the guard. -/
structure StateInv (s : State) : Prop where
  /-- The buffer is in its canonical form. -/
  memory : s.buf.wf
  /-- Item (e): `buf[0] = 0x55`. -/
  startByte : s.buf.read 0 = some Config.startByte
  /-- Item (b): `cursor ≤ length`. -/
  cursorLe : s.cursor ≤ s.length
  /-- Item (f): if `sending = false` then `cursor = 0`. -/
  idleCursor : s.sending = false → s.cursor = 0#8
  /-- Item (g): a packet in flight has `length ≥ 1`. -/
  packetLength : s.sending = true → 1 ≤ s.length.toNat
  /-- Item (g): and every one of its cells is written. -/
  packetWritten : s.sending = true → ∀ a < s.length.toNat, (s.buf.read a).isSome = true
  /-- Item (h): `tx_ie = 1` implies `tx_en = 1`. -/
  enableInit : s.txIe = true → s.txEn = true
  /-- R209: while Draining, the guard interval has been waited out. -/
  guardWaited : s.sending = true → s.txIe = true → guardTicks s.bitRate ≤ s.idleTicks

/-- What the once-only configuration keeps (R28, R29, R32, R34, and the corner cases of R121 and R140), for open
parameters `p`. -/
structure ConfigInv (p : Params) (s : State) : Prop where
  /-- R29: `conv = none` exactly when the encoder is off, and its table is then unwritten. -/
  unconfigured : s.conv = none → encOn s = false ∧ s.encTruth = none
  /-- R29: a configured convention is the one in the table, and the encoder is on. -/
  configured : ∀ c, s.conv = some c → encOn s = true ∧ s.encTruth = some (conventionTruth c)
  /-- R121: the encoder is configured before the transmitter is enabled. -/
  encoderFirst : s.txEn = true → encOn s = true
  /-- R32: before TXINIT there is no bit rate. -/
  rateUnset : s.txEn = false → s.bitRate = none
  /-- R32: after TXINIT the bit rate is at least `MIN_BIT_RATE`. -/
  rateSet : s.txEn = true → ∃ r, s.bitRate = some r ∧ Config.minBitRate ≤ r.toNat
  /-- R34: the transmitter holds at most `TX_STAGES` bytes. -/
  queueLe : s.txq.length ≤ p.txStages
  /-- R129, R264: nothing is loaded or sent before TXINIT. -/
  quiet : s.txEn = false → s.txq = [] ∧ s.txLog = [] ∧ s.line = []

/-- R146: `line` is the encoding of `tx_log` without its last `|txq|` entries, which are `txq`. -/
def LineEncodesLog (p : Params) (s : State) : Prop :=
  ∃ sent, s.txLog = sent ++ s.txq ∧ s.line = manchPacket p (truthOf s) sent

/-- The cells of the current packet: offsets 0 .. `length` − 1 (R62, R96). -/
def packetCells (s : State) : List (Option Byte) := (List.range s.length.toNat).map fun a => s.buf.read a

/-- R195: since the log was `before`, exactly the packet's cells below the cursor have been loaded, in order. -/
def LoadedSince (before : List Byte) (s : State) : Prop :=
  s.txLog.map some = before.map some ++ (packetCells s).take s.cursor.toNat

/-- What is left to do of a drain: two per byte to load, one per byte to shift out (R196). -/
def drainWork (s : State) : Nat := 2 * (s.length.toNat - s.cursor.toNat) + s.txq.length

/-- The state `t` is `n` steps after `s`. -/
def StepsTo : Nat → State → State → Prop
  | 0, s, t => t = s
  | n + 1, s, t => ∃ u, step s = .next u ∧ StepsTo n u t

/-- What is left to do of a free-mode run: for each byte of the stream still to decode one command and what the drain it may
enable can do, the drain in progress, and the bytes to shift out (R148, R199, R283). -/
def freeWork (s : State) : Nat :=
  512 * (s.stream.length - s.pc) + (if s.txIe then 2 * (s.length.toNat - s.cursor.toNat) + 1 else 0) + s.txq.length

/-- No agent may take a step in free mode: the run is quiescent (R284). -/
def Quiescent (p : Params) (s : State) : Prop := enabledAgents p s = []

/-- A complete, unfaulted run that left nothing in the transmitter and no packet in flight (R284). -/
def Clean (s : State) : Prop :=
  s.status = .running ∧ s.pc = s.stream.length ∧ s.txq = [] ∧ stateName s = .idle ∧ s.cursor = 0#8

end Sys2Proof.Machine
end

