-- ==== Sys2Proof/Certificates/Slice0/Obligations.lean ====
section
/-! DEFINITION. The statements for the provers. They are stated about `exec`, `step`, `decode` and the named operations;
next states are written out field by field, so that a statement says what changed and that nothing else did. -/

open Sys2Proof Sys2Proof.Machine

/-! ### Encodings -/

/-- Words written out from `30_encoding.md` section 3 decode to the commands they stand for. -/
def Obligations.WordsOfEachRowDecode : Prop :=
  decode [0x01, 0x00] = .ok (.cfgenc 0x00, []) ∧
  decode [0x02, 0x50, 0xC3, 0x00, 0x00, 0x03] = .ok (.txinit 50000, [0x03]) ∧
  decode [0x02, 0x80, 0x3E, 0x00, 0x00] = .ok (.txinit 16000, []) ∧
  decode [0x03, 0x04] = .ok (.txien, [0x04]) ∧
  decode [0x04] = .ok (.txidis, []) ∧
  decode [0x05, 0xA3, 0xE1] = .ok (.loadb 0xA3, [0xE1]) ∧
  decode [0x06, 0x02, 0x48, 0x69, 0x07] = .ok (.submit 2 [0x48, 0x69], [0x07]) ∧
  decode [0x07] = .ok (.guard, []) ∧
  decode [0xE0, 0xE1] = .ok (.drain, [0xE1]) ∧
  decode [0xE1] = .ok (.shift, [])

/-- The encoding of every well-formed command, at the front of any stream, decodes to that command and leaves the rest. -/
def Obligations.DecodeOfEncode : Prop :=
  ∀ (i : Instr) (rest : List Byte), i.WellFormed = true → decode (encode i ++ rest) = .ok (i, rest)

/-- Whatever decodes is the encoding of the well-formed command it decodes to. -/
def Obligations.DecodedBytesAreTheEncoding : Prop :=
  ∀ (bs rest : List Byte) (i : Instr), decode bs = .ok (i, rest) → i.WellFormed = true ∧ bs = encode i ++ rest

/-- Every opcode byte other than 0x01..0x07, 0xE0, 0xE1 is refused, and nothing else changes. -/
def Obligations.IllegalOpcodeIsRefused : Prop :=
  ∀ (b : Byte) (rest : List Byte), ¬(1 ≤ b.toNat ∧ b.toNat ≤ 7) → b ≠ 0xE0 → b ≠ 0xE1 →
    decode (b :: rest) = .error .illegalCommand ∧
    ∀ s : State, s.status = .running → s.stream.drop s.pc = b :: rest →
      agentStep .host s = .next { s with status := .refused .illegalCommand } ∧
      (s.mode = .scripted → step s = .next { s with status := .refused .illegalCommand })

/-- A command whose operand bytes run past the end of the stream is refused with TruncatedCommand (R106). -/
def Obligations.TruncatedCommandIsRefused : Prop :=
  ∀ (i : Instr) (k : Nat), i.WellFormed = true → 0 < k → k < (encode i).length →
    decode ((encode i).take k) = .error .truncatedCommand ∧
    ∀ s : State, s.status = .running → s.stream.drop s.pc = (encode i).take k →
      agentStep .host s = .next { s with status := .refused .truncatedCommand } ∧
      (s.mode = .scripted → step s = .next { s with status := .refused .truncatedCommand })

/-- The length rule (R108): `pc` moves by the command's length on success, not at all on a fault or refusal; a marker has
a place in the stream in scripted mode only. -/
def Obligations.PcAdvancesByTheLength : Prop :=
  (∀ i : Instr, i.WellFormed = true → (encode i).length =
    match i with
    | .cfgenc _ => 2
    | .txinit _ => 5
    | .txien => 1
    | .txidis => 1
    | .loadb _ => 2
    | .submit n _ => 2 + n.toNat
    | .guard => 1
    | .drain => 1
    | .shift => 1) ∧
  ∀ (i : Instr) (s t : State), i.WellFormed = true → exec i s = .next t →
    (t.status = .running → (s.mode = .scripted ∨ i.isMarker = false) → t.pc = s.pc + (encode i).length) ∧
    (t.status = .running → s.mode = .free → i.isMarker = true → t.pc = s.pc) ∧
    (t.status ≠ .running → t.pc = s.pc)

/-! ### The step, the agents, the end of a run -/

/-- A step runs the decoded command. Scripted: `step` is `exec` of it. Free: the host agent's step is, but that it passes
over a marker (the model's choice, notes/assumptions/14.md); and a step of the machine is the step of the agent the free
choice picks, one turn later (notes/assumptions/3.md). -/
def Obligations.StepRunsTheDecodedCommand : Prop :=
  ∀ s : State, s.status = .running →
    (∀ (i : Instr) (rest : List Byte), decode (s.stream.drop s.pc) = .ok (i, rest) →
      (s.mode = .scripted → step s = exec i s ∧ agentStep .host s = exec i s) ∧
      (s.mode = .free → i.isMarker = false → agentStep .host s = exec i s) ∧
      (s.mode = .free → i.isMarker = true → agentStep .host s = .next { s with pc := s.pc + 1 })) ∧
    agentStep .drain s = exec .drain s ∧
    agentStep .shifter s = exec .shift s ∧
    (s.mode = .free → ∀ (a : Agent) (as : List Agent), enabledAgents Config.params s = a :: as →
      step s = agentStep (pickAgent (Config.freeTurn s.turn) a as) { s with turn := s.turn + 1 })

/-- Which agents are enabled, `status = running` and free mode apart (43_drain_state_machine.md section 2,
41_serial_transmitter.md section 4). The second clause is the model's choice, notes/assumptions/3.md: of a list of agents
the choice number picks every member by some number and nothing but a member. That `step` picks from the enabled agents
of a running machine in free mode is said in `StepRunsTheDecodedCommand`. -/
def Obligations.AnyEnabledAgentMayStepNext : Prop :=
  (∀ (p : Params) (s : State) (a : Agent), a ∈ enabledAgents p s ↔
    (a = .host ∧ s.pc < s.stream.length) ∨
    (a = .drain ∧ s.txEn = true ∧ s.txIe = true ∧ s.txq.length < p.txStages) ∨
    (a = .shifter ∧ s.txEn = true ∧ s.txq ≠ [])) ∧
  ∀ (a b : Agent) (as : List Agent), b ∈ a :: as ↔ ∃ k, pickAgent k a as = b

/-- The end of a run (30_encoding.md section 5, 70_reset_and_hazards.md section 4). That the model answers it with
`runComplete` is its choice, notes/assumptions/10.md; so are the pick among the enabled agents and the turn counter,
notes/assumptions/3.md. -/
def Obligations.RunEndsWhenNoAgentIsEnabled : Prop :=
  ∀ s : State, s.status = .running → s.pc = s.stream.length →
    agentStep .host s = .refused .runComplete ∧
    (s.mode = .scripted → step s = .refused .runComplete) ∧
    (Quiescent Config.params s ↔ irq Config.params s = false ∧ shiftEnabled s = false) ∧
    (s.mode = .free → irq Config.params s = false → shiftEnabled s = false → step s = .refused .runComplete) ∧
    (s.mode = .free → (irq Config.params s = true ∨ shiftEnabled s = true) →
      ∃ a, a ≠ Agent.host ∧ agentEnabled Config.params s a = true ∧ step s = agentStep a { s with turn := s.turn + 1 })

/-- No operation writes the command stream, and no step changes how the run is read; the free choice's turn counter moves
by one in free mode and not at all in scripted mode (the model's own fields, notes/assumptions/1.md to 3.md). -/
def Obligations.StreamIsImmutable : Prop :=
  ∀ s t : State, step s = .next t →
    t.stream = s.stream ∧ t.mode = s.mode ∧
    (s.mode = .scripted → t.turn = s.turn) ∧ (s.mode = .free → t.turn = s.turn + 1)

/-- Every scripted step that succeeds is, with the markers deleted, a free step: the same operation on the same state in
free mode gives the same state, but that a marker takes no place in the stream. -/
def Obligations.ScriptedStepIsAFreeStep : Prop :=
  ∀ (i : Instr) (s t : State), s.mode = .scripted → exec i s = .next t → t.status = .running →
    exec i { s with mode := .free } =
      .next { t with mode := .free, pc := if i.isMarker then s.pc else t.pc }

/-- Nothing reads `line`, `tx_log` or `ok` (R38, R39, R171): with other values in them, the same step gives the same
outcome, every other field the same. -/
def Obligations.OutputsAreNeverRead : Prop :=
  ∀ (s : State) (l : List Level) (g : List Byte) (o : Bool),
    match step s, step { s with line := l, txLog := g, ok := o } with
    | .next t, .next u => { u with line := t.line, txLog := t.txLog, ok := t.ok } = t
    | .fault c, .fault d => c = d
    | .refused c, .refused d => c = d
    | _, _ => False

/-! ### Faults and refusals -/

/-- A fault or a refusal sets `status` and changes nothing else, and no step of any agent follows; `status` starts running
and is never set back (10_state.md section 10, 60_exceptions.md section 1). That a code is recorded by a next state and that
every later `step`, `agentStep` and `exec` answers it is the model's choice, notes/assumptions/9.md; the turn counter is the
model's own, notes/assumptions/3.md. -/
def Obligations.FaultsAndRefusalsAreTerminal : Prop :=
  State.reset.status = .running ∧
  (∀ s t : State, step s = .next t → s.status = .running) ∧
  (∀ (i : Instr) (s t : State), exec i s = .next t →
    s.status = .running ∧ (t.status ≠ .running → t = { s with status := t.status })) ∧
  (∀ s t : State, step s = .next t → t.status ≠ .running → t = { s with status := t.status, turn := t.turn }) ∧
  (∀ (t : State) (c : Fault), t.status = .faulted c →
    step t = .fault c ∧ (∀ a, agentStep a t = .fault c) ∧ (∀ i, exec i t = .fault c) ∧ ¬Clean t) ∧
  (∀ (t : State) (c : RefusalCode), t.status = .refused c →
    step t = .refused (.recorded c) ∧ (∀ a, agentStep a t = .refused (.recorded c)) ∧
    (∀ i, exec i t = .refused (.recorded c)) ∧ ¬Clean t)

/-- The fault list with its codes, who raises each, the cause, and that only the code is left behind (R223). -/
def Obligations.FaultsComeFromTheirCauses : Prop :=
  [Fault.rateRange, .cursorInvariant, .lengthInvariant, .staleDrain, .guardViolation, .unwrittenRead].map Fault.code
    = [1, 2, 3, 4, 5, 6] ∧
  ∀ (i : Instr) (s t : State) (c : Fault), exec i s = .next t → t.status = .faulted c →
    t = { s with status := .faulted c } ∧
    match c with
    | .rateRange => ∃ r : BitVec 32, i = .txinit r ∧ r.toNat < 16000
    | .cursorInvariant => i = .drain ∧ s.length < s.cursor
    | .lengthInvariant => False
    | .staleDrain => i = .drain ∧ s.cursor < s.length ∧ s.sending = false
    | .guardViolation => i = .txien ∧ s.sending = true ∧ s.idleTicks < guardTicks s.bitRate
    | .unwrittenRead => i = .drain ∧ s.buf.read s.cursor.toNat = none

/-- The refusal list with its codes, who raises each, the cause, and that only the code is left behind (R224). -/
def Obligations.RefusalsComeFromTheirCauses : Prop :=
  [RefusalCode.illegalCommand, .illegalOperand, .truncatedCommand, .eventNotEnabled, .reconfigure, .reinit, .initOrder,
    .txNotInitialised, .txNotReady, .loadWhileSending, .submitTooLong, .submitWhileEnabled].map RefusalCode.code
    = [16, 17, 18, 19, 20, 21, 22, 23, 24, 25, 26, 27] ∧
  (∀ (s t : State), hostStep s = .next t →
    (t.status = .refused .illegalCommand → s.status = .running → ∃ b rest, s.stream.drop s.pc = b :: rest ∧ opcodeOf b = none) ∧
    (t.status = .refused .truncatedCommand → s.status = .running →
      ∃ b o rest, s.stream.drop s.pc = b :: rest ∧ opcodeOf b = some o ∧ decodeOperands o rest = none)) ∧
  ∀ (i : Instr) (s t : State) (c : RefusalCode), exec i s = .next t → t.status = .refused c →
    t = { s with status := .refused c } ∧
    match c with
    | .illegalCommand => False
    | .illegalOperand => ∃ b : Byte, i = .cfgenc b ∧ b ≠ 0 ∧ b ≠ 1
    | .truncatedCommand => False
    | .eventNotEnabled => s.mode = .scripted ∧
        ((i = .drain ∧ irq Config.params s = false) ∨ (i = .shift ∧ shiftEnabled s = false))
    | .reconfigure => (∃ b, i = .cfgenc b) ∧ s.conv ≠ none
    | .reinit => (∃ r, i = .txinit r) ∧ s.txEn = true
    | .initOrder => (∃ r, i = .txinit r) ∧ encOn s = false
    | .txNotInitialised => (i = .txien ∨ i = .txidis ∨ (∃ b, i = .loadb b) ∨ i = .guard) ∧ s.txEn = false
    | .txNotReady => (∃ b, i = .loadb b) ∧ dre Config.params s = false
    | .loadWhileSending => (∃ b, i = .loadb b) ∧ s.sending = true
    | .submitTooLong => ∃ n data, i = .submit n data ∧ 254 < n.toNat
    | .submitWhileEnabled => (∃ n data, i = .submit n data) ∧ s.sending = false ∧ s.txIe = true

/-- The faults the rules call unreachable are not reached from a state that meets the invariant. -/
def Obligations.InvariantFaultsAreUnreachable : Prop :=
  ∀ s t : State, StateInv s → step s = .next t →
    t.status ≠ .faulted .cursorInvariant ∧ t.status ≠ .faulted .lengthInvariant ∧ t.status ≠ .faulted .unwrittenRead

/-! ### The line encoder -/

/-- The cell's output and the two truth tables (40_line_encoder.md section 1). The last clause, no output while `enc_on` is 0,
is what the spec's model does there and marks as derived: "The model gives `enc_out` no value then"; it is held as `none`
by the model's choice, notes/assumptions/7.md. -/
def Obligations.TruthTablesAreXorAndXnor : Prop :=
  (∀ (t : BitVec 4) (ser clk : Level), lut t ser clk = t.getLsbD (2 * clk.toNat + ser.toNat)) ∧
  (∀ ser clk : Level, lut 0x6 ser clk = Level.xor ser clk) ∧
  (∀ ser clk : Level, lut 0x9 ser clk = Level.xnor ser clk) ∧
  (∀ (s : State) (t : BitVec 4) (ser clk : Level), encOn s = true → s.encTruth = some t →
    encOut s ser clk = some (lut t ser clk)) ∧
  (∀ (s : State) (ser clk : Level), encOn s = false → encOut s ser clk = none)

/-- `manch_bit` (R123), with the spec's decided `CLK_FIRST` = 1 (notes/assumptions/5.md). -/
def Obligations.BitCellHalves : Prop :=
  (∀ (t : BitVec 4) (d : Level), manchBit t d = [lut t d true, lut t d false]) ∧
  manchBit 0x9 false = [false, true] ∧ manchBit 0x9 true = [true, false] ∧
  manchBit 0x6 false = [true, false] ∧ manchBit 0x6 true = [false, true]

/-- `manch_byte` (R124): the bit cells of the byte in wire order, 16 levels, and the rule's own example. -/
def Obligations.ByteFrame : Prop :=
  (∀ (p : Params) (t : BitVec 4) (b : Byte),
    (p.msbFirst = true → manchByte p t b = [7, 6, 5, 4, 3, 2, 1, 0].flatMap fun i => manchBit t (b.getLsbD i)) ∧
    (p.msbFirst = false → manchByte p t b = [0, 1, 2, 3, 4, 5, 6, 7].flatMap fun i => manchBit t (b.getLsbD i)) ∧
    (manchByte p t b).length = 16) ∧
  ∀ p : Params, p.msbFirst = true →
    manchByte p 0x9 0x55 =
      [false, true, true, false, false, true, true, false, false, true, true, false, false, true, true, false] ∧
    manchByte p 0x6 0x55 =
      [true, false, false, true, true, false, false, true, true, false, false, true, true, false, false, true]

/-- The complement law, which the spec derives (40_line_encoder.md section 4). -/
def Obligations.ConventionsAreComplements : Prop :=
  (∀ d : Level, manchBit 0x9 d = (manchBit 0x6 d).map (!·)) ∧
  (∀ (p : Params) (b : Byte), manchByte p 0x9 b = (manchByte p 0x6 b).map (!·)) ∧
  ∀ (p : Params) (bs : List Byte), manchPacket p 0x9 bs = (manchPacket p 0x6 bs).map (!·)

/-- The transition law, which the spec derives (40_line_encoder.md section 4): a transition in every bit cell, opposite for 0 and 1, and never three equal levels in a row. -/
def Obligations.EveryBitCellHasATransition : Prop :=
  ∀ (p : Params) (t : BitVec 4), t = 0x6 ∨ t = 0x9 →
    (∀ d : Level, ∃ h, manchBit t d = [h, !h]) ∧
    manchBit t false = (manchBit t true).map (!·) ∧
    ∀ (bs : List Byte) (k : Nat) (x y z : Level),
      (manchPacket p t bs)[k]? = some x → (manchPacket p t bs)[k + 1]? = some y →
      (manchPacket p t bs)[k + 2]? = some z → ¬(x = y ∧ y = z)

/-- CFGENC: its effect for each convention, and its two refusals in the order of the checks. -/
def Obligations.CfgencOutcomes : Prop :=
  ∀ (b : Byte) (s : State), s.status = .running →
    (b ≠ 0 → b ≠ 1 → exec (.cfgenc b) s = .next { s with status := .refused .illegalOperand }) ∧
    ((b = 0 ∨ b = 1) → s.conv ≠ none → exec (.cfgenc b) s = .next { s with status := .refused .reconfigure }) ∧
    (b = 0 → s.conv = none → exec (.cfgenc b) s = .next { s with
      encTruth := some 0x9, encLuten := true, encPeren := true, conv := some .A, pc := s.pc + 2 }) ∧
    (b = 1 → s.conv = none → exec (.cfgenc b) s = .next { s with
      encTruth := some 0x6, encLuten := true, encPeren := true, conv := some .B, pc := s.pc + 2 })

/-! ### The serial transmitter -/

/-- TXINIT: its effect, and its refusals and fault in the order of the checks. -/
def Obligations.TxinitOutcomes : Prop :=
  ∀ (r : BitVec 32) (s : State), s.status = .running →
    (encOn s = false → exec (.txinit r) s = .next { s with status := .refused .initOrder }) ∧
    (encOn s = true → s.txEn = true → exec (.txinit r) s = .next { s with status := .refused .reinit }) ∧
    (encOn s = true → s.txEn = false → r.toNat < 16000 →
      exec (.txinit r) s = .next { s with status := .faulted .rateRange }) ∧
    (encOn s = true → s.txEn = false → 16000 ≤ r.toNat →
      exec (.txinit r) s = .next { s with bitRate := some r, txEn := true, txIe := false, pc := s.pc + 5 })

/-- TXIEN: its effect, its refusal, and its guard fault; equality of ticks and guard length passes. -/
def Obligations.TxienOutcomes : Prop :=
  ∀ s : State, s.status = .running →
    (s.txEn = false → exec .txien s = .next { s with status := .refused .txNotInitialised }) ∧
    (s.txEn = true → s.sending = true → s.idleTicks < guardTicks s.bitRate →
      exec .txien s = .next { s with status := .faulted .guardViolation }) ∧
    (s.txEn = true → (s.sending = false ∨ guardTicks s.bitRate ≤ s.idleTicks) →
      exec .txien s = .next { s with txIe := true, pc := s.pc + 1 })

/-- TXIDIS: its effect and its refusal; the interrupt request is then down. -/
def Obligations.TxidisOutcomes : Prop :=
  ∀ s : State, s.status = .running →
    (s.txEn = false → exec .txidis s = .next { s with status := .refused .txNotInitialised }) ∧
    (s.txEn = true → exec .txidis s = .next { s with txIe := false, pc := s.pc + 1 } ∧
      irq Config.params { s with txIe := false, pc := s.pc + 1 } = false)

/-- The load primitive (R144): what it writes, `dre` after it for depths 1 and 2 and in general, that `dre` is up again when
the next byte has been shifted, and that a byte is loaded only while the transmitter is ready. -/
def Obligations.LoadsHappenOnlyWhenReady : Prop :=
  (∀ (s : State) (b : Byte), s.txLoad b = { s with txq := s.txq ++ [b], txLog := s.txLog ++ [b] }) ∧
  (∀ (p : Params) (s : State) (b : Byte), s.txEn = true →
    (dre p (s.txLoad b) = true ↔ s.txq.length + 1 < p.txStages) ∧
    (p.txStages = 1 → dre p (s.txLoad b) = false) ∧
    (p.txStages = 2 → s.txq = [] → dre p (s.txLoad b) = true) ∧
    (p.txStages = 2 → s.txq ≠ [] → dre p (s.txLoad b) = false) ∧
    (s.txq.length < p.txStages → ∀ (levels : List Level) (c : Byte) (q : List Byte), (s.txLoad b).txq = c :: q →
      dre p ((s.txLoad b).shiftOut levels q) = true)) ∧
  ∀ (i : Instr) (s t : State), exec i s = .next t → t.txLog ≠ s.txLog →
    s.txEn = true ∧ s.txq.length < Config.params.txStages ∧
    ∃ b, t.txq = s.txq ++ [b] ∧ t.txLog = s.txLog ++ [b]

/-- LOADB: its effect, and its three refusals in the order of the checks. -/
def Obligations.LoadbOutcomes : Prop :=
  ∀ (b : Byte) (s : State), s.status = .running →
    (s.txEn = false → exec (.loadb b) s = .next { s with status := .refused .txNotInitialised }) ∧
    (s.txEn = true → s.sending = true → exec (.loadb b) s = .next { s with status := .refused .loadWhileSending }) ∧
    (s.txEn = true → s.sending = false → Config.params.txStages ≤ s.txq.length →
      exec (.loadb b) s = .next { s with status := .refused .txNotReady }) ∧
    (s.txEn = true → s.sending = false → s.txq.length < Config.params.txStages →
      exec (.loadb b) s = .next { s with txq := s.txq ++ [b], txLog := s.txLog ++ [b], pc := s.pc + 2 })

/-- SHIFT: the head of `txq` goes onto the line through the loaded table; `pc` moves in scripted mode only; where the event
is not enabled, a marker is refused and in free mode nothing happens (notes/assumptions/15.md). -/
def Obligations.ShiftOutcomes : Prop :=
  ∀ s : State, s.status = .running →
    ((s.txEn = false ∨ s.txq = []) → s.mode = .scripted →
      exec .shift s = .next { s with status := .refused .eventNotEnabled }) ∧
    ((s.txEn = false ∨ s.txq = []) → s.mode = .free → exec .shift s = .next s) ∧
    (∀ t : BitVec 4, s.encTruth = some t → truthOf s = t) ∧
    ∀ (b : Byte) (rest : List Byte), s.txEn = true → s.txq = b :: rest →
      (s.mode = .scripted → exec .shift s = .next { s with
        line := s.line ++ manchByte Config.params (truthOf s) b, txq := rest, pc := s.pc + 1 }) ∧
      (s.mode = .free → exec .shift s = .next { s with
        line := s.line ++ manchByte Config.params (truthOf s) b, txq := rest })

/-- After CFGENC and TXINIT, before the first SUBMIT, which the spec derives (70_reset_and_hazards.md section 1). -/
def Obligations.StartUpLeavesTheMachineIdle : Prop :=
  ∀ (b : Byte) (r : BitVec 32), b = 0 ∨ b = 1 → 16000 ≤ r.toNat →
    ∃ t, execAll [.cfgenc b, .txinit r] State.reset = .next t ∧ t.status = .running ∧ stateName t = .idle ∧
      dre Config.params t = true ∧ irq Config.params t = false ∧ t.line = [] ∧ shiftEnabled t = false ∧
      exec .shift { t with mode := .free } = .next { t with mode := .free }

/-! ### The transmit buffer -/

/-- SUBMIT: accepted, busy, refused. On the accepted path the payload stands at offsets 1 .. n and every other cell reads
as before. (Fewer payload bytes than `n` is no operand of a command; the model stops: notes/assumptions/12.md.) -/
def Obligations.SubmitOutcomes : Prop :=
  ∀ (n : Byte) (data : List Byte) (s : State), s.status = .running →
    (data.length < n.toNat → exec (.submit n data) s = .refused .shortPayload) ∧
    (n.toNat ≤ data.length → 254 < n.toNat →
      exec (.submit n data) s = .next { s with status := .refused .submitTooLong }) ∧
    (n.toNat ≤ data.length → n.toNat ≤ 254 → s.sending = true →
      exec (.submit n data) s = .next { s with ok := false, pc := s.pc + 2 + n.toNat }) ∧
    (n.toNat ≤ data.length → n.toNat ≤ 254 → s.sending = false → s.txIe = true →
      exec (.submit n data) s = .next { s with status := .refused .submitWhileEnabled }) ∧
    (n.toNat ≤ data.length → n.toNat ≤ 254 → s.sending = false → s.txIe = false →
      ∃ (m : Memory) (len : BitVec 8),
        exec (.submit n data) s =
          .next { s with buf := m, length := len, sending := true, ok := true, pc := s.pc + 2 + n.toNat } ∧
        len.toNat = n.toNat + 1 ∧
        (∀ i < n.toNat, m.read (1 + i) = data[i]?) ∧
        ∀ a, a = 0 ∨ n.toNat < a → m.read a = s.buf.read a)

/-- The framing byte is at offset 0 after reset and no step ever changes what offset 0 reads as (R22). -/
def Obligations.FramingByteIsNeverOverwritten : Prop :=
  State.reset.buf.read 0 = some 0x55 ∧
  ∀ s t : State, step s = .next t → t.buf.read 0 = s.buf.read 0

/-- The buffer's canonical form is kept by every step. The form (rising offsets below 255, no entry equal to the reset
contents) is the model's choice, notes/assumptions/13.md; the spec gives the 255 cells. -/
def Obligations.BufferStaysCanonical : Prop :=
  ∀ s t : State, s.buf.wf → step s = .next t → t.buf.wf

/-- In the canonical form, buffers that read the same are the same data: a law of the representation the model chose,
notes/assumptions/13.md, over the 255 cells the spec gives. -/
def Obligations.CanonicalBuffersWithEqualCellsAreEqual : Prop :=
  ∀ m n : Memory, m.wf → n.wf → (∀ a < 255, m.read a = n.read a) → m = n

/-! ### The transmission state machine -/

/-- DRAIN: the two rows of the transition table, the three faults, and the event not enabled (in free mode nothing happens:
notes/assumptions/15.md). -/
def Obligations.DrainOutcomes : Prop :=
  ∀ s : State, s.status = .running →
    (irq Config.params s = false → s.mode = .scripted →
      exec .drain s = .next { s with status := .refused .eventNotEnabled }) ∧
    (irq Config.params s = false → s.mode = .free → exec .drain s = .next s) ∧
    (s.txIe = true → s.txEn = true → s.txq.length < Config.params.txStages →
      (s.cursor < s.length → s.sending = false → exec .drain s = .next { s with status := .faulted .staleDrain }) ∧
      (s.cursor < s.length → s.sending = true → s.buf.read s.cursor.toNat = none →
        exec .drain s = .next { s with status := .faulted .unwrittenRead }) ∧
      (∀ b : Byte, s.cursor < s.length → s.sending = true → s.buf.read s.cursor.toNat = some b →
        exec .drain s = .next { s with
          txq := s.txq ++ [b], txLog := s.txLog ++ [b], cursor := s.cursor + 1,
          pc := if s.mode = .scripted then s.pc + 1 else s.pc } ∧
        (s.cursor + 1).toNat = s.cursor.toNat + 1) ∧
      (s.cursor = s.length → exec .drain s = .next { s with
        cursor := 0, txIe := false, sending := false, idleTicks := 0,
        pc := if s.mode = .scripted then s.pc + 1 else s.pc }) ∧
      (s.length < s.cursor → exec .drain s = .next { s with status := .faulted .cursorInvariant }))

/-- Idle idempotence (R194): with `cursor = length` a DRAIN loads nothing and ends Idle, whatever `sending` was; and no
DRAIN takes the cursor past `length`. -/
def Obligations.DrainAtTheEndIsIdempotent : Prop :=
  (∀ s : State, s.status = .running → irq Config.params s = true → s.cursor = s.length →
    ∃ t, exec .drain s = .next t ∧ t.status = .running ∧ stateName t = .idle ∧ t.cursor = 0 ∧
      t.txq = s.txq ∧ t.txLog = s.txLog ∧ t.buf = s.buf ∧ t.length = s.length) ∧
  (∀ s : State, s.status = .running → irq Config.params s = true → stateName s = .spurious → s.length = 0 →
    s.cursor = 0 → ∃ t, exec .drain s = .next t ∧ t.status = .running ∧ stateName t = .idle ∧ t.txLog = s.txLog) ∧
  ∀ s t : State, exec .drain s = .next t →
    (s.length ≤ s.cursor → t.txLog = s.txLog ∧ t.cursor ≤ s.cursor) ∧
    (s.cursor ≤ s.length → t.cursor ≤ t.length)

/-- Every event against every named state, a table the spec derives (43_drain_state_machine.md section 3). The premise rules out states no run reaches. -/
def Obligations.TransitionTable : Prop :=
  ∀ s : State, StateInv s → s.status = .running →
    (∀ (n : Byte) (data : List Byte), n.toNat ≤ data.length → n.toNat ≤ 254 →
      (stateName s = .idle → ∃ t, exec (.submit n data) s = .next t ∧ t.status = .running ∧
        stateName t = .armed ∧ t.ok = true) ∧
      (stateName s = .armed ∨ stateName s = .draining → ∃ t, exec (.submit n data) s = .next t ∧
        t.status = .running ∧ stateName t = stateName s ∧ t.ok = false) ∧
      (stateName s = .spurious →
        exec (.submit n data) s = .next { s with status := .refused .submitWhileEnabled })) ∧
    (s.txEn = true →
      (stateName s = .idle ∨ stateName s = .spurious → ∃ t, exec .txien s = .next t ∧ t.status = .running ∧
        stateName t = .spurious) ∧
      (stateName s = .armed → guardTicks s.bitRate ≤ s.idleTicks → ∃ t, exec .txien s = .next t ∧
        t.status = .running ∧ stateName t = .draining) ∧
      (stateName s = .armed → s.idleTicks < guardTicks s.bitRate →
        exec .txien s = .next { s with status := .faulted .guardViolation }) ∧
      (stateName s = .draining → ∃ t, exec .txien s = .next t ∧ t.status = .running ∧ stateName t = .draining) ∧
      (stateName s = .idle ∨ stateName s = .spurious → ∃ t, exec .txidis s = .next t ∧ t.status = .running ∧
        stateName t = .idle) ∧
      (stateName s = .armed ∨ stateName s = .draining → ∃ t, exec .txidis s = .next t ∧ t.status = .running ∧
        stateName t = .armed) ∧
      (∃ t, exec .guard s = .next t ∧ t.status = .running ∧ stateName t = stateName s ∧
        t.idleTicks = s.idleTicks + guardTicks s.bitRate) ∧
      (∀ b : Byte, s.txq.length < Config.params.txStages →
        (stateName s = .idle ∨ stateName s = .spurious → ∃ t, exec (.loadb b) s = .next t ∧ t.status = .running ∧
          stateName t = stateName s ∧ t.txLog = s.txLog ++ [b]) ∧
        (stateName s = .armed ∨ stateName s = .draining →
          exec (.loadb b) s = .next { s with status := .refused .loadWhileSending })) ∧
      (s.txq ≠ [] → ∃ t, exec .shift s = .next t ∧ t.status = .running ∧ stateName t = stateName s)) ∧
    (stateName s = .idle ∨ stateName s = .armed → irq Config.params s = false) ∧
    (irq Config.params s = true →
      (stateName s = .draining → s.cursor < s.length → ∃ t, exec .drain s = .next t ∧ t.status = .running ∧
        stateName t = .draining ∧ t.cursor.toNat = s.cursor.toNat + 1) ∧
      (stateName s = .spurious → s.cursor < s.length →
        exec .drain s = .next { s with status := .faulted .staleDrain }) ∧
      (s.cursor = s.length → ∃ t, exec .drain s = .next t ∧ t.status = .running ∧ stateName t = .idle)) ∧
    (∀ (b : Byte) (t : State), exec (.cfgenc b) s = .next t → stateName t = stateName s) ∧
    ∀ (r : BitVec 32) (t : State), exec (.txinit r) s = .next t → stateName t = stateName s

/-- At most one packet in flight: `sending` rises only in an accepted SUBMIT and falls only in a completing DRAIN; buffer
and length change only in an accepted SUBMIT that found it clear; a SUBMIT that finds it set changes only `ok` and `pc`. -/
def Obligations.OnePacketInFlight : Prop :=
  (∀ (i : Instr) (s t : State), exec i s = .next t →
    (s.sending = false → t.sending = true →
      ∃ n data, i = .submit n data ∧ t.ok = true ∧ t.length.toNat = n.toNat + 1 ∧ t.txIe = false) ∧
    (s.sending = true → t.sending = false → i = .drain ∧ s.cursor = s.length ∧ t.cursor = 0 ∧ t.txIe = false) ∧
    (t.buf ≠ s.buf ∨ t.length ≠ s.length →
      s.sending = false ∧ t.sending = true ∧ t.ok = true ∧ ∃ n data, i = .submit n data)) ∧
  ∀ s t : State, step s = .next t → s.sending = true → t.buf = s.buf ∧ t.length = s.length

/-- Who may write what: the writes of the ownership table (20_memory.md section 3), row by row. -/
def Obligations.OwnershipTable : Prop :=
  ∀ (i : Instr) (s t : State), exec i s = .next t →
    t.buf.read 0 = s.buf.read 0 ∧
    (t.buf ≠ s.buf ∨ t.length ≠ s.length → i.isMarker = false ∧ s.sending = false) ∧
    (t.sending ≠ s.sending → (i.isMarker = false ∧ s.sending = false) ∨ (i = .drain ∧ s.sending = true)) ∧
    (t.cursor ≠ s.cursor → i = .drain) ∧
    (t.txIe ≠ s.txIe → i.isMarker = false ∨ (i = .drain ∧ t.txIe = false)) ∧
    (t.txq ≠ s.txq → ((∃ b, i = .loadb b ∨ i = .drain) ∧ ∃ b, t.txq = s.txq ++ [b]) ∨
      (i = .shift ∧ ∃ b, s.txq = b :: t.txq)) ∧
    (t.line ≠ s.line → i = .shift ∧ ∃ levels, t.line = s.line ++ levels) ∧
    (i = .shift → t = { s with line := t.line, txq := t.txq, pc := t.pc, status := t.status })

/-- The invariant at reset, and with it the configuration invariant and the relation of the line to the log. The canonical
form in the invariant is the model's choice, notes/assumptions/13.md. -/
def Obligations.InvariantsHoldAtReset : Prop :=
  StateInv State.reset ∧ ConfigInv Config.params State.reset ∧ LineEncodesLog Config.params State.reset

/-- Every step of every agent, in either mode, keeps the invariant. The canonical form in it is the model's choice,
notes/assumptions/13.md; the other items are the spec's, some of them derived there (10_state.md section 13). -/
def Obligations.InvariantIsKept : Prop :=
  ∀ s t : State, StateInv s → step s = .next t → StateInv t

/-- Every step keeps what the once-only configuration promises. -/
def Obligations.ConfigurationInvariantIsKept : Prop :=
  ∀ s t : State, ConfigInv Config.params s → step s = .next t → ConfigInv Config.params t

/-- At every point of a run the line is the encoding of the log without the bytes still in the transmitter, which the spec
derives (41_serial_transmitter.md section 4). -/
def Obligations.LineIsTheEncodingOfTheLog : Prop :=
  ∀ s t : State, ConfigInv Config.params s → LineEncodesLog Config.params s → step s = .next t →
    LineEncodesLog Config.params t ∧
    (t.txq = [] → t.line = manchPacket Config.params (truthOf t) t.txLog)

/-- Order preservation: from an accepted SUBMIT to the completing DRAIN the log grows by exactly the framing byte and the
payload, in order, once each, which the spec derives (43_drain_state_machine.md section 3). -/
def Obligations.BytesAreLoadedInOrderOnceEach : Prop :=
  (∀ (n : Byte) (data : List Byte) (s t : State), StateInv s → exec (.submit n data) s = .next t → t.status = .running →
    t.ok = true →
    packetCells t = (0x55#8 :: data.take n.toNat).map some ∧ LoadedSince s.txLog t) ∧
  ∀ (before : List Byte) (s t : State), StateInv s → s.sending = true → LoadedSince before s → step s = .next t →
    t.status = .running →
    packetCells t = packetCells s ∧
    ((t.sending = true ∧ LoadedSince before t) ∨
      (t.sending = false ∧ t.txLog.map some = before.map some ++ packetCells s))

/-- A drain of the packet's remaining bytes, one DRAIN and one SHIFT a byte and one DRAIN to complete, ends Idle with those
bytes in the log and their frames on the line, 16 levels a byte, whatever the open parameters are. -/
def Obligations.DrainOfAPacketCompletes : Prop :=
  ∀ (s : State) (bs : List Byte), StateInv s → s.status = .running → stateName s = .draining → s.txq = [] →
    (packetCells s).drop s.cursor.toNat = bs.map some →
    ∃ t, execAll (pumpOps bs.length ++ [.drain]) s = .next t ∧ t.status = .running ∧ stateName t = .idle ∧
      t.cursor = 0 ∧ t.idleTicks = 0 ∧ t.txq = [] ∧ t.txLog = s.txLog ++ bs ∧
      t.line = s.line ++ manchPacket Config.params (truthOf s) bs ∧
      (manchPacket Config.params (truthOf s) bs).length = 16 * bs.length ∧
      t.length = s.length ∧ t.buf = s.buf

/-- Whatever the interleaving, a drain completes: under every schedule of drain and shifter steps made of rounds in which
each of the two occurs, in any order and any number of times, the packet is loaded in order, sent whole, and the machine
ends Idle with an empty transmitter. The bound on the rounds is the model's own measure of the work left. -/
def Obligations.EveryFairScheduleDrains : Prop :=
  ∀ (s : State) (before : List Byte) (rounds : List (List Agent)), StateInv s → s.status = .running → s.mode = .free →
    stateName s = .draining → LoadedSince before s → LineEncodesLog Config.params s →
    (∀ r ∈ rounds, Agent.drain ∈ r ∧ Agent.shifter ∈ r ∧ Agent.host ∉ r) → drainWork s < rounds.length →
    ∃ t, agentRun rounds.flatten s = .next t ∧ t.status = .running ∧ stateName t = .idle ∧ t.cursor = 0 ∧ t.txq = [] ∧
      t.txLog.map some = before.map some ++ packetCells s ∧
      t.line = manchPacket Config.params (truthOf s) t.txLog

/-- Every free-mode run ends, whatever the schedule, host steps and LOADB bytes included: within `freeWork s` steps it is
quiescent and over, or a fault or refusal has stopped it. The bound is the model's own measure of what is left to do,
notes/assumptions/17.md; the answer `runComplete` is its choice, notes/assumptions/10.md. -/
def Obligations.EveryFreeRunEnds : Prop :=
  (∀ s t : State, s.mode = .free → step s = .next t → t.status = .running → freeWork t < freeWork s) ∧
  ∀ s : State, s.mode = .free → s.status = .running →
    ∃ n ≤ freeWork s, ∃ t, StepsTo n s t ∧
      ((t.status = .running ∧ Quiescent Config.params t ∧ step t = .refused .runComplete) ∨ t.status ≠ .running)

/-- DRAIN and SHIFT are weakly fair in free mode: whatever the schedule, an enabled event happens, or is no longer enabled, or
the run has been stopped, within `freeWork s` steps. A SHIFT stays enabled until it happens, so it happens unless the run is
stopped; and it does stay enabled under every step of another agent. The bound is the model's own measure, notes/assumptions/17.md, and how an
agent is scheduled its choice, notes/assumptions/3.md. -/
def Obligations.EnabledEventsHappen : Prop :=
  (∀ (s : State) (a : Agent), a ≠ .host → s.mode = .free → s.status = .running →
    agentEnabled Config.params s a = true →
    ∃ n ≤ freeWork s, ∃ u, StepsTo n s u ∧
      ((u.status = .running ∧ scheduled u = some a ∧ step u = agentStep a { u with turn := u.turn + 1 }) ∨
        agentEnabled Config.params u a = false ∨ u.status ≠ .running)) ∧
  (∀ (a : Agent) (s t : State), a ≠ .shifter → s.mode = .free → shiftEnabled s = true → agentStep a s = .next t →
    shiftEnabled t = true) ∧
  ∀ s : State, s.mode = .free → s.status = .running → shiftEnabled s = true →
    ∃ n ≤ freeWork s, ∃ u, StepsTo n s u ∧
      ((u.status = .running ∧ scheduled u = some .shifter ∧
          step u = agentStep .shifter { u with turn := u.turn + 1 }) ∨ u.status ≠ .running)

/-- Every loaded byte is eventually shifted: a free-mode run that no fault or refusal stops ends with an empty transmitter and
the whole log, the bytes loaded before and during the run, by DRAIN or by LOADB, encoded on the line in order. The answer
`runComplete` is the model's choice, notes/assumptions/10.md. -/
def Obligations.EveryLoadedByteIsShifted : Prop :=
  ∀ s : State, s.mode = .free → s.status = .running → ConfigInv Config.params s →
    LineEncodesLog Config.params s →
    ∃ n t, StepsTo n s t ∧
      (t.status ≠ .running ∨
        (step t = .refused .runComplete ∧ t.txq = [] ∧ s.txLog <+: t.txLog ∧
          t.line = manchPacket Config.params (truthOf t) t.txLog))

/-- A machine that is Draining always has an event enabled, and each event leaves less to do until the packet is complete. -/
def Obligations.DrainingMakesProgress : Prop :=
  ∀ s : State, StateInv s → s.status = .running → stateName s = .draining →
    (irq Config.params s = true ∨ shiftEnabled s = true) ∧
    ∀ a : Agent, a ≠ .host → agentEnabled Config.params s a = true →
      ∃ t, agentStep a s = .next t ∧ t.status = .running ∧
        (stateName t = .idle ∨ (stateName t = .draining ∧ drainWork t < drainWork s))

/-- The traces only grow: one log entry per load, 16 levels per byte shifted, and nothing removed. -/
def Obligations.TracesOnlyGrow : Prop :=
  ∀ s t : State, step s = .next t →
    (t.txLog = s.txLog ∨ ∃ b, t.txLog = s.txLog ++ [b] ∧ t.txq = s.txq ++ [b]) ∧
    (t.line = s.line ∨ ∃ b levels, s.txq = b :: t.txq ∧ t.line = s.line ++ levels ∧ levels.length = 16 ∧
      levels = manchByte Config.params (truthOf s) b) ∧
    s.txLog <+: t.txLog ∧ s.line <+: t.line

/-- The configuration is written once: encoder fields, transmitter enable and bit rate never change after. -/
def Obligations.ConfigurationIsWrittenOnce : Prop :=
  ∀ s t : State, step s = .next t →
    (s.conv ≠ none → t.conv = s.conv ∧ t.encTruth = s.encTruth) ∧
    (s.encLuten = true → t.encLuten = true) ∧ (s.encPeren = true → t.encPeren = true) ∧
    (s.txEn = true → t.txEn = true ∧ t.bitRate = s.bitRate)

/-! ### The packet scheduler -/

/-- GUARD: its effect and its refusal. -/
def Obligations.GuardOutcomes : Prop :=
  ∀ s : State, s.status = .running →
    (s.txEn = false → exec .guard s = .next { s with status := .refused .txNotInitialised }) ∧
    (s.txEn = true →
      exec .guard s = .next { s with idleTicks := s.idleTicks + guardTicks s.bitRate, pc := s.pc + 1 })

/-- The guard length (R205): the exact ceiling, its bounds, the rule's own values, and the tick in time steps. -/
def Obligations.GuardLengthIsTheCeiling : Prop :=
  (∀ r : BitVec 32, r ≠ 0 →
    2048000 ≤ guardTicks (some r) * r.toNat ∧ (guardTicks (some r) - 1) * r.toNat < 2048000 ∧
    1 ≤ guardTicks (some r) ∧
    (16000 ≤ r.toNat → guardTicks (some r) ≤ 128) ∧
    (2048000 ≤ r.toNat → guardTicks (some r) = 1) ∧
    guardTimeSteps (some r) = 250 * guardTicks (some r)) ∧
  [16000, 16001, 19200, 50000, 115200, 1000000, 1024000, 1024001, 2047999, 2048000].map
    (fun r => guardTicks (some (BitVec.ofNat 32 r))) = [128, 128, 107, 41, 18, 3, 2, 2, 2, 1]

/-- Guard ticks pass only in a GUARD and are cleared only by a completing DRAIN; the interrupt is never enabled with a
packet armed and fewer ticks waited than the guard length. -/
def Obligations.GuardIntervalIsKept : Prop :=
  ∀ (i : Instr) (s t : State), exec i s = .next t →
    (t.idleTicks ≠ s.idleTicks →
      (i = .guard ∧ t.idleTicks = s.idleTicks + guardTicks s.bitRate) ∨
      (i = .drain ∧ s.cursor = s.length ∧ t.idleTicks = 0)) ∧
    (s.txIe = false → t.txIe = true →
      i = .txien ∧ (s.sending = true → guardTicks s.bitRate ≤ s.idleTicks))

/-- The scheduler's protocol (44_packet_scheduler.md section 2; the protocol step is notes/assumptions/26.md): after an accepted SUBMIT the interrupt is off, so the host waits, and its GUARD
and TXIEN then succeed whatever ticks were waited before. -/
def Obligations.SchedulerAlwaysWaitsBeforeEnabling : Prop :=
  (∀ (n : Byte) (data : List Byte) (s t : State), exec (.submit n data) s = .next t → t.status = .running →
    (t.ok = true → s.sending = false ∧ t.sending = true ∧ t.txIe = false ∧ nextPhase t .submit = .wait) ∧
    (t.ok = false → t.sending = true ∧ nextPhase t .submit = .submit)) ∧
  ∀ (h : HostPlan) (s : State), s.status = .running → s.txEn = true → s.sending = true →
    ∃ t u, protocolStep h .wait s = .next (.enable, t) ∧ protocolStep h .enable t = .next (.submit, u) ∧
      u.status = .running ∧ stateName u = .draining

/-! ### Reset -/

/-- The reset table (R51). -/
def Obligations.ResetValues : Prop :=
  State.reset.buf.read 0 = some 0x55 ∧ (∀ a, 1 ≤ a → a ≤ 254 → State.reset.buf.read a = none) ∧
  State.reset.length = 0 ∧ State.reset.sending = false ∧ State.reset.cursor = 0 ∧ State.reset.ok = false ∧
  State.reset.conv = none ∧ State.reset.encTruth = none ∧ State.reset.encLuten = false ∧
  State.reset.encPeren = false ∧ State.reset.txEn = false ∧ State.reset.txIe = false ∧ State.reset.bitRate = none ∧
  State.reset.txq = [] ∧ State.reset.line = [] ∧ State.reset.txLog = [] ∧ State.reset.idleTicks = 0 ∧
  State.reset.status = .running ∧ State.reset.pc = 0 ∧ stateName State.reset = .idle

/-! ### Frames -/

/-- What the control operations leave unchanged: buffer, packet registers, transmitter queue, traces, and each control
field that is not their own. -/
def Obligations.ControlOperationsFrame : Prop :=
  ∀ (i : Instr) (s t : State), exec i s = .next t →
    ((∃ b, i = .cfgenc b) ∨ (∃ r, i = .txinit r) ∨ i = .txien ∨ i = .txidis ∨ i = .guard) →
    (∀ a, t.buf.read a = s.buf.read a) ∧ t.buf = s.buf ∧ t.length = s.length ∧ t.sending = s.sending ∧
    t.cursor = s.cursor ∧ t.ok = s.ok ∧ t.txq = s.txq ∧ t.line = s.line ∧ t.txLog = s.txLog ∧
    t.stream = s.stream ∧ t.mode = s.mode ∧ t.turn = s.turn ∧
    ((∃ b, i = .cfgenc b) ∨
      (t.conv = s.conv ∧ t.encTruth = s.encTruth ∧ t.encLuten = s.encLuten ∧ t.encPeren = s.encPeren)) ∧
    ((∃ r, i = .txinit r) ∨ (t.txEn = s.txEn ∧ t.bitRate = s.bitRate)) ∧
    ((∃ r, i = .txinit r) ∨ i = .txien ∨ i = .txidis ∨ t.txIe = s.txIe) ∧
    (i = .guard ∨ t.idleTicks = s.idleTicks)

/-- What LOADB and SHIFT leave unchanged: buffer, packet registers, every control field; LOADB the line, SHIFT the log. -/
def Obligations.LoadAndShiftFrame : Prop :=
  ∀ (i : Instr) (s t : State), exec i s = .next t → ((∃ b, i = .loadb b) ∨ i = .shift) →
    (∀ a, t.buf.read a = s.buf.read a) ∧ t.buf = s.buf ∧ t.length = s.length ∧ t.sending = s.sending ∧
    t.cursor = s.cursor ∧ t.ok = s.ok ∧ t.conv = s.conv ∧ t.encTruth = s.encTruth ∧ t.encLuten = s.encLuten ∧
    t.encPeren = s.encPeren ∧ t.txEn = s.txEn ∧ t.txIe = s.txIe ∧ t.bitRate = s.bitRate ∧
    t.idleTicks = s.idleTicks ∧ t.stream = s.stream ∧ t.mode = s.mode ∧ t.turn = s.turn ∧
    (i = .shift ∨ t.line = s.line) ∧ (i = .shift → t.txLog = s.txLog)

/-- What SUBMIT leaves unchanged: every cell outside the offsets 1 .. n it stores to (all cells when it is not accepted),
the cursor, the transmitter, the encoder, the traces, the guard ticks. -/
def Obligations.SubmitFrame : Prop :=
  ∀ (n : Byte) (data : List Byte) (s t : State), exec (.submit n data) s = .next t →
    (∀ a, a = 0 ∨ n.toNat < a → t.buf.read a = s.buf.read a) ∧
    (s.sending = true ∨ t.status ≠ .running → t.buf = s.buf ∧ t.length = s.length ∧ t.sending = s.sending) ∧
    (t.status ≠ .running → t.ok = s.ok) ∧
    t.cursor = s.cursor ∧ t.conv = s.conv ∧ t.encTruth = s.encTruth ∧ t.encLuten = s.encLuten ∧
    t.encPeren = s.encPeren ∧ t.txEn = s.txEn ∧ t.txIe = s.txIe ∧ t.bitRate = s.bitRate ∧ t.txq = s.txq ∧
    t.line = s.line ∧ t.txLog = s.txLog ∧ t.idleTicks = s.idleTicks ∧ t.stream = s.stream ∧ t.mode = s.mode ∧
    t.turn = s.turn

/-- What DRAIN leaves unchanged: buffer, length, result, encoder, transmitter configuration, line; a loading row also the
interrupt enable, the flag and the guard ticks, the completing row also queue and log. -/
def Obligations.DrainFrame : Prop :=
  ∀ s t : State, exec .drain s = .next t →
    (∀ a, t.buf.read a = s.buf.read a) ∧ t.buf = s.buf ∧ t.length = s.length ∧ t.ok = s.ok ∧ t.conv = s.conv ∧
    t.encTruth = s.encTruth ∧ t.encLuten = s.encLuten ∧ t.encPeren = s.encPeren ∧ t.txEn = s.txEn ∧
    t.bitRate = s.bitRate ∧ t.line = s.line ∧ t.stream = s.stream ∧ t.mode = s.mode ∧ t.turn = s.turn ∧
    (s.cursor ≠ s.length → t.txIe = s.txIe ∧ t.sending = s.sending ∧ t.idleTicks = s.idleTicks) ∧
    (s.cursor = s.length → t.txq = s.txq ∧ t.txLog = s.txLog)
end

