-- ==== Sys2Proof/Laws/Decode.lean ====
section
/-! SUPPORT. The laws of the decoder's shared operations: splitting off a payload, and the bytes of a rate. -/

namespace Sys2Proof

theorem splitBytes_append (xs ys : List Byte) : splitBytes xs.length (xs ++ ys) = some (xs, ys) := by
  induction xs with
  | nil => rfl
  | cons x xs ih => simp [splitBytes, ih]

/-- What splitting off `k` bytes can answer. -/
theorem splitBytes_some {k : Nat} {bs : List Byte} {r : List Byte × List Byte} (h : splitBytes k bs = some r) :
    r.1.length = k ∧ bs = r.1 ++ r.2 := by
  induction k generalizing bs r with
  | zero => cases h; exact ⟨rfl, rfl⟩
  | succ k ih =>
    cases bs with
    | nil => cases h
    | cons b bs =>
      simp only [splitBytes] at h
      split at h
      · cases h
      · rename_i q hq
        cases h
        obtain ⟨h1, h2⟩ := ih hq
        exact ⟨by simp [h1], by simp [← h2]⟩

theorem splitBytes_none {k : Nat} {bs : List Byte} : splitBytes k bs = none ↔ bs.length < k := by
  induction k generalizing bs with
  | zero => simp [splitBytes]
  | succ k ih =>
    cases bs with
    | nil => simp [splitBytes]
    | cons b bs =>
      simp only [splitBytes, List.length_cons, Nat.add_lt_add_iff_right, ← ih (bs := bs)]
      split <;> simp [*]

end Sys2Proof
end

