-- ==== Sys2Proof/Laws/Memory.lean ====
section
/-! SUPPORT. The laws of the transmit buffer: a read after a write, and every operation keeps the canonical form. -/

namespace Sys2Proof.Machine

@[simp] theorem Memory.read_nil (a : Nat) : Memory.read [] a = Memory.resetByte a := rfl

theorem Memory.lookup_erase (m : Memory) (a x : Nat) :
    (m.erase a).lookup x = if x = a then none else m.lookup x := by
  induction m with
  | nil => simp [Memory.erase, Memory.lookup]
  | cons c m ih =>
    obtain ⟨y, b⟩ := c
    simp only [Memory.erase] at ih
    by_cases hy : y = a
    · subst hy
      simp only [Memory.erase, List.filter_cons, bne_self_eq_false, Bool.false_eq_true, if_false, ih,
        Memory.lookup]
      split
      · rfl
      · rw [if_neg (by omega)]
    · simp only [Memory.erase, List.filter_cons, bne_iff_ne, ne_eq, hy, not_false_eq_true, if_true,
        Memory.lookup, ih]
      by_cases hx : y = x
      · subst hx; simp [hy]
      · simp [hx]

theorem Memory.lookup_insert (m : Memory) (a x : Nat) (b : Byte) (h : m.lookup a = none) :
    (Memory.insert a b m).lookup x = if x = a then some b else m.lookup x := by
  induction m with
  | nil => simp [Memory.insert, Memory.lookup, eq_comm]
  | cons c m ih =>
    obtain ⟨y, d⟩ := c
    simp only [Memory.lookup] at h
    have hya : y ≠ a := by intro e; simp [e] at h
    rw [if_neg hya] at h
    simp only [Memory.insert]
    split
    · simp only [Memory.lookup, eq_comm (a := a)]
    · simp only [Memory.lookup, ih h]
      by_cases hx : y = x
      · subst hx; simp [hya]
      · simp [hx]

/-- What a write does: the cell reads as the byte written, every other cell as before. -/
theorem Memory.read_write (m : Memory) (a x : Nat) (b : Byte) :
    (m.write a b).read x = if x = a then some b else m.read x := by
  have hnone : (m.erase a).lookup a = none := by simp [Memory.lookup_erase]
  unfold Memory.write
  split
  · rename_i hr
    simp only [Memory.read, Memory.lookup_erase]
    by_cases hx : x = a
    · subst hx; simp [hr]
    · simp [hx]
  · simp only [Memory.read, Memory.lookup_insert _ _ _ _ hnone, Memory.lookup_erase]
    by_cases hx : x = a <;> simp [hx]

theorem Memory.read_write_same (m : Memory) (a : Nat) (b : Byte) : (m.write a b).read a = some b := by
  simp [Memory.read_write]

theorem Memory.read_write_other (m : Memory) {a x : Nat} (b : Byte) (h : x ≠ a) :
    (m.write a b).read x = m.read x := by
  simp [Memory.read_write, h]

/-- What a run of writes does: inside it the bytes written, outside it every cell as before. -/
theorem Memory.read_writeFrom (m : Memory) (a x : Nat) (bs : List Byte) :
    (m.writeFrom a bs).read x = if a ≤ x ∧ x < a + bs.length then bs[x - a]? else m.read x := by
  induction bs generalizing m a with
  | nil => simp [Memory.writeFrom]
  | cons b bs ih =>
    simp only [Memory.writeFrom, ih, Memory.read_write, List.length_cons]
    by_cases hx : x = a
    · subst hx; simp
    · by_cases hin : a + 1 ≤ x ∧ x < a + 1 + bs.length
      · rw [if_pos hin, if_pos (by omega)]
        obtain ⟨k, rfl⟩ : ∃ k, x = a + 1 + k := ⟨x - (a + 1), by omega⟩
        rw [show a + 1 + k - (a + 1) = k by omega, show a + 1 + k - a = k + 1 by omega]
        simp
      · rw [if_neg hin, if_neg hx, if_neg (by omega)]

/-- A cell outside the run of writes reads as before. -/
theorem Memory.read_writeFrom_outside (m : Memory) {a x : Nat} {bs : List Byte} (h : x < a ∨ a + bs.length ≤ x) :
    (m.writeFrom a bs).read x = m.read x := by
  rw [Memory.read_writeFrom, if_neg (by omega)]

theorem Memory.wf_nil : Memory.wf [] := by simp [Memory.wf]

theorem Memory.wf_erase {m : Memory} (a : Nat) (h : m.wf) : (m.erase a).wf := by
  obtain ⟨h1, h2⟩ := h
  refine ⟨h1.sublist (List.filter_sublist.map _), fun c hc => h2 c (List.mem_of_mem_filter hc)⟩

theorem Memory.mem_insert {m : Memory} {a : Nat} {b : Byte} {c : Host.Cell} :
    c ∈ Memory.insert a b m ↔ c = (a, b) ∨ c ∈ m := by
  induction m with
  | nil => simp [Memory.insert]
  | cons d m ih =>
    simp only [Memory.insert]
    split
    · simp
    · simp [ih]; tauto

theorem Memory.sorted_insert {m : Memory} {a : Nat} {b : Byte}
    (h : (m.map Prod.fst).Pairwise (· < ·)) (ha : ∀ c ∈ m, c.1 ≠ a) :
    ((Memory.insert a b m).map Prod.fst).Pairwise (· < ·) := by
  induction m with
  | nil => simp [Memory.insert]
  | cons d m ih =>
    obtain ⟨y, e⟩ := d
    simp only [List.map_cons, List.pairwise_cons] at h
    have hy : y ≠ a := ha (y, e) (by simp)
    simp only [Memory.insert]
    split
    · rename_i hay
      simp only [List.map_cons, List.pairwise_cons, List.mem_cons, forall_eq_or_imp]
      exact ⟨⟨hay, fun z hz => lt_trans hay (h.1 z hz)⟩, h⟩
    · rename_i hay
      simp only [List.map_cons, List.pairwise_cons]
      refine ⟨?_, ih h.2 fun c hc => ha c (by simp [hc])⟩
      intro z hz
      obtain ⟨c, hc, rfl⟩ := List.mem_map.1 hz
      rcases Memory.mem_insert.1 hc with rfl | hm
      · simp only; omega
      · exact h.1 _ (List.mem_map_of_mem hm)

/-- A write inside the buffer keeps the canonical form. -/
theorem Memory.wf_write {m : Memory} {a : Nat} {b : Byte} (h : m.wf) (ha : a < Config.capacity) : (m.write a b).wf := by
  have he := Memory.wf_erase a h
  unfold Memory.write
  split
  · exact he
  · rename_i hr
    refine ⟨Memory.sorted_insert he.1 ?_, ?_⟩
    · intro c hc
      simp only [Memory.erase, List.mem_filter, bne_iff_ne] at hc
      exact hc.2
    · intro c hc
      rcases Memory.mem_insert.1 hc with rfl | hm
      · exact ⟨ha, hr⟩
      · exact he.2 c hm

/-- A run of writes inside the buffer keeps the canonical form. -/
theorem Memory.wf_writeFrom {m : Memory} {a : Nat} {bs : List Byte} (h : m.wf)
    (ha : a + bs.length ≤ Config.capacity) : (m.writeFrom a bs).wf := by
  induction bs generalizing m a with
  | nil => exact h
  | cons b bs ih =>
    simp only [List.length_cons] at ha
    exact ih (Memory.wf_write h (by omega)) (by omega)

/-- The buffer is in its canonical form at reset. -/
theorem Memory.reset_wf : State.reset.buf.wf := Memory.wf_nil

end Sys2Proof.Machine
end

