-- ==== Sys2Proof/Laws/State.lean ====
section
/-! SUPPORT. One lemma per field per named update of the state, each true by unfolding, so that no later proof unfolds an
update. -/

namespace Sys2Proof.Machine

/-! ### `State.setStatus` -/

@[simp] theorem State.setStatus_buf (s : State) (st : Status) : (s.setStatus st).buf = s.buf := rfl
@[simp] theorem State.setStatus_length (s : State) (st : Status) : (s.setStatus st).length = s.length := rfl
@[simp] theorem State.setStatus_sending (s : State) (st : Status) : (s.setStatus st).sending = s.sending := rfl
@[simp] theorem State.setStatus_cursor (s : State) (st : Status) : (s.setStatus st).cursor = s.cursor := rfl
@[simp] theorem State.setStatus_ok (s : State) (st : Status) : (s.setStatus st).ok = s.ok := rfl
@[simp] theorem State.setStatus_conv (s : State) (st : Status) : (s.setStatus st).conv = s.conv := rfl
@[simp] theorem State.setStatus_encTruth (s : State) (st : Status) : (s.setStatus st).encTruth = s.encTruth := rfl
@[simp] theorem State.setStatus_encLuten (s : State) (st : Status) : (s.setStatus st).encLuten = s.encLuten := rfl
@[simp] theorem State.setStatus_encPeren (s : State) (st : Status) : (s.setStatus st).encPeren = s.encPeren := rfl
@[simp] theorem State.setStatus_txEn (s : State) (st : Status) : (s.setStatus st).txEn = s.txEn := rfl
@[simp] theorem State.setStatus_txIe (s : State) (st : Status) : (s.setStatus st).txIe = s.txIe := rfl
@[simp] theorem State.setStatus_bitRate (s : State) (st : Status) : (s.setStatus st).bitRate = s.bitRate := rfl
@[simp] theorem State.setStatus_txq (s : State) (st : Status) : (s.setStatus st).txq = s.txq := rfl
@[simp] theorem State.setStatus_line (s : State) (st : Status) : (s.setStatus st).line = s.line := rfl
@[simp] theorem State.setStatus_txLog (s : State) (st : Status) : (s.setStatus st).txLog = s.txLog := rfl
@[simp] theorem State.setStatus_idleTicks (s : State) (st : Status) : (s.setStatus st).idleTicks = s.idleTicks := rfl
@[simp] theorem State.setStatus_status (s : State) (st : Status) : (s.setStatus st).status = st := rfl
@[simp] theorem State.setStatus_pc (s : State) (st : Status) : (s.setStatus st).pc = s.pc := rfl
@[simp] theorem State.setStatus_stream (s : State) (st : Status) : (s.setStatus st).stream = s.stream := rfl
@[simp] theorem State.setStatus_mode (s : State) (st : Status) : (s.setStatus st).mode = s.mode := rfl
@[simp] theorem State.setStatus_turn (s : State) (st : Status) : (s.setStatus st).turn = s.turn := rfl

/-! ### `State.advance` -/

@[simp] theorem State.advance_buf (s : State) (n : Nat) : (s.advance n).buf = s.buf := rfl
@[simp] theorem State.advance_length (s : State) (n : Nat) : (s.advance n).length = s.length := rfl
@[simp] theorem State.advance_sending (s : State) (n : Nat) : (s.advance n).sending = s.sending := rfl
@[simp] theorem State.advance_cursor (s : State) (n : Nat) : (s.advance n).cursor = s.cursor := rfl
@[simp] theorem State.advance_ok (s : State) (n : Nat) : (s.advance n).ok = s.ok := rfl
@[simp] theorem State.advance_conv (s : State) (n : Nat) : (s.advance n).conv = s.conv := rfl
@[simp] theorem State.advance_encTruth (s : State) (n : Nat) : (s.advance n).encTruth = s.encTruth := rfl
@[simp] theorem State.advance_encLuten (s : State) (n : Nat) : (s.advance n).encLuten = s.encLuten := rfl
@[simp] theorem State.advance_encPeren (s : State) (n : Nat) : (s.advance n).encPeren = s.encPeren := rfl
@[simp] theorem State.advance_txEn (s : State) (n : Nat) : (s.advance n).txEn = s.txEn := rfl
@[simp] theorem State.advance_txIe (s : State) (n : Nat) : (s.advance n).txIe = s.txIe := rfl
@[simp] theorem State.advance_bitRate (s : State) (n : Nat) : (s.advance n).bitRate = s.bitRate := rfl
@[simp] theorem State.advance_txq (s : State) (n : Nat) : (s.advance n).txq = s.txq := rfl
@[simp] theorem State.advance_line (s : State) (n : Nat) : (s.advance n).line = s.line := rfl
@[simp] theorem State.advance_txLog (s : State) (n : Nat) : (s.advance n).txLog = s.txLog := rfl
@[simp] theorem State.advance_idleTicks (s : State) (n : Nat) : (s.advance n).idleTicks = s.idleTicks := rfl
@[simp] theorem State.advance_status (s : State) (n : Nat) : (s.advance n).status = s.status := rfl
@[simp] theorem State.advance_pc (s : State) (n : Nat) : (s.advance n).pc = s.pc + n := rfl
@[simp] theorem State.advance_stream (s : State) (n : Nat) : (s.advance n).stream = s.stream := rfl
@[simp] theorem State.advance_mode (s : State) (n : Nat) : (s.advance n).mode = s.mode := rfl
@[simp] theorem State.advance_turn (s : State) (n : Nat) : (s.advance n).turn = s.turn := rfl

/-! ### `State.nextTurn` -/

@[simp] theorem State.nextTurn_buf (s : State) : s.nextTurn.buf = s.buf := rfl
@[simp] theorem State.nextTurn_length (s : State) : s.nextTurn.length = s.length := rfl
@[simp] theorem State.nextTurn_sending (s : State) : s.nextTurn.sending = s.sending := rfl
@[simp] theorem State.nextTurn_cursor (s : State) : s.nextTurn.cursor = s.cursor := rfl
@[simp] theorem State.nextTurn_ok (s : State) : s.nextTurn.ok = s.ok := rfl
@[simp] theorem State.nextTurn_conv (s : State) : s.nextTurn.conv = s.conv := rfl
@[simp] theorem State.nextTurn_encTruth (s : State) : s.nextTurn.encTruth = s.encTruth := rfl
@[simp] theorem State.nextTurn_encLuten (s : State) : s.nextTurn.encLuten = s.encLuten := rfl
@[simp] theorem State.nextTurn_encPeren (s : State) : s.nextTurn.encPeren = s.encPeren := rfl
@[simp] theorem State.nextTurn_txEn (s : State) : s.nextTurn.txEn = s.txEn := rfl
@[simp] theorem State.nextTurn_txIe (s : State) : s.nextTurn.txIe = s.txIe := rfl
@[simp] theorem State.nextTurn_bitRate (s : State) : s.nextTurn.bitRate = s.bitRate := rfl
@[simp] theorem State.nextTurn_txq (s : State) : s.nextTurn.txq = s.txq := rfl
@[simp] theorem State.nextTurn_line (s : State) : s.nextTurn.line = s.line := rfl
@[simp] theorem State.nextTurn_txLog (s : State) : s.nextTurn.txLog = s.txLog := rfl
@[simp] theorem State.nextTurn_idleTicks (s : State) : s.nextTurn.idleTicks = s.idleTicks := rfl
@[simp] theorem State.nextTurn_status (s : State) : s.nextTurn.status = s.status := rfl
@[simp] theorem State.nextTurn_pc (s : State) : s.nextTurn.pc = s.pc := rfl
@[simp] theorem State.nextTurn_stream (s : State) : s.nextTurn.stream = s.stream := rfl
@[simp] theorem State.nextTurn_mode (s : State) : s.nextTurn.mode = s.mode := rfl
@[simp] theorem State.nextTurn_turn (s : State) : s.nextTurn.turn = s.turn + 1 := rfl

/-! ### `State.configure` -/

@[simp] theorem State.configure_buf (s : State) (c : Convention) (t : BitVec 4) : (s.configure c t).buf = s.buf := rfl
@[simp] theorem State.configure_length (s : State) (c : Convention) (t : BitVec 4) : (s.configure c t).length = s.length := rfl
@[simp] theorem State.configure_sending (s : State) (c : Convention) (t : BitVec 4) : (s.configure c t).sending = s.sending := rfl
@[simp] theorem State.configure_cursor (s : State) (c : Convention) (t : BitVec 4) : (s.configure c t).cursor = s.cursor := rfl
@[simp] theorem State.configure_ok (s : State) (c : Convention) (t : BitVec 4) : (s.configure c t).ok = s.ok := rfl
@[simp] theorem State.configure_conv (s : State) (c : Convention) (t : BitVec 4) : (s.configure c t).conv = some c := rfl
@[simp] theorem State.configure_encTruth (s : State) (c : Convention) (t : BitVec 4) : (s.configure c t).encTruth = some t := rfl
@[simp] theorem State.configure_encLuten (s : State) (c : Convention) (t : BitVec 4) : (s.configure c t).encLuten = true := rfl
@[simp] theorem State.configure_encPeren (s : State) (c : Convention) (t : BitVec 4) : (s.configure c t).encPeren = true := rfl
@[simp] theorem State.configure_txEn (s : State) (c : Convention) (t : BitVec 4) : (s.configure c t).txEn = s.txEn := rfl
@[simp] theorem State.configure_txIe (s : State) (c : Convention) (t : BitVec 4) : (s.configure c t).txIe = s.txIe := rfl
@[simp] theorem State.configure_bitRate (s : State) (c : Convention) (t : BitVec 4) : (s.configure c t).bitRate = s.bitRate := rfl
@[simp] theorem State.configure_txq (s : State) (c : Convention) (t : BitVec 4) : (s.configure c t).txq = s.txq := rfl
@[simp] theorem State.configure_line (s : State) (c : Convention) (t : BitVec 4) : (s.configure c t).line = s.line := rfl
@[simp] theorem State.configure_txLog (s : State) (c : Convention) (t : BitVec 4) : (s.configure c t).txLog = s.txLog := rfl
@[simp] theorem State.configure_idleTicks (s : State) (c : Convention) (t : BitVec 4) : (s.configure c t).idleTicks = s.idleTicks := rfl
@[simp] theorem State.configure_status (s : State) (c : Convention) (t : BitVec 4) : (s.configure c t).status = s.status := rfl
@[simp] theorem State.configure_pc (s : State) (c : Convention) (t : BitVec 4) : (s.configure c t).pc = s.pc := rfl
@[simp] theorem State.configure_stream (s : State) (c : Convention) (t : BitVec 4) : (s.configure c t).stream = s.stream := rfl
@[simp] theorem State.configure_mode (s : State) (c : Convention) (t : BitVec 4) : (s.configure c t).mode = s.mode := rfl
@[simp] theorem State.configure_turn (s : State) (c : Convention) (t : BitVec 4) : (s.configure c t).turn = s.turn := rfl

/-! ### `State.initialise` -/

@[simp] theorem State.initialise_buf (s : State) (r : BitVec 32) : (s.initialise r).buf = s.buf := rfl
@[simp] theorem State.initialise_length (s : State) (r : BitVec 32) : (s.initialise r).length = s.length := rfl
@[simp] theorem State.initialise_sending (s : State) (r : BitVec 32) : (s.initialise r).sending = s.sending := rfl
@[simp] theorem State.initialise_cursor (s : State) (r : BitVec 32) : (s.initialise r).cursor = s.cursor := rfl
@[simp] theorem State.initialise_ok (s : State) (r : BitVec 32) : (s.initialise r).ok = s.ok := rfl
@[simp] theorem State.initialise_conv (s : State) (r : BitVec 32) : (s.initialise r).conv = s.conv := rfl
@[simp] theorem State.initialise_encTruth (s : State) (r : BitVec 32) : (s.initialise r).encTruth = s.encTruth := rfl
@[simp] theorem State.initialise_encLuten (s : State) (r : BitVec 32) : (s.initialise r).encLuten = s.encLuten := rfl
@[simp] theorem State.initialise_encPeren (s : State) (r : BitVec 32) : (s.initialise r).encPeren = s.encPeren := rfl
@[simp] theorem State.initialise_txEn (s : State) (r : BitVec 32) : (s.initialise r).txEn = true := rfl
@[simp] theorem State.initialise_txIe (s : State) (r : BitVec 32) : (s.initialise r).txIe = false := rfl
@[simp] theorem State.initialise_bitRate (s : State) (r : BitVec 32) : (s.initialise r).bitRate = some r := rfl
@[simp] theorem State.initialise_txq (s : State) (r : BitVec 32) : (s.initialise r).txq = s.txq := rfl
@[simp] theorem State.initialise_line (s : State) (r : BitVec 32) : (s.initialise r).line = s.line := rfl
@[simp] theorem State.initialise_txLog (s : State) (r : BitVec 32) : (s.initialise r).txLog = s.txLog := rfl
@[simp] theorem State.initialise_idleTicks (s : State) (r : BitVec 32) : (s.initialise r).idleTicks = s.idleTicks := rfl
@[simp] theorem State.initialise_status (s : State) (r : BitVec 32) : (s.initialise r).status = s.status := rfl
@[simp] theorem State.initialise_pc (s : State) (r : BitVec 32) : (s.initialise r).pc = s.pc := rfl
@[simp] theorem State.initialise_stream (s : State) (r : BitVec 32) : (s.initialise r).stream = s.stream := rfl
@[simp] theorem State.initialise_mode (s : State) (r : BitVec 32) : (s.initialise r).mode = s.mode := rfl
@[simp] theorem State.initialise_turn (s : State) (r : BitVec 32) : (s.initialise r).turn = s.turn := rfl

/-! ### `State.setTxIe` -/

@[simp] theorem State.setTxIe_buf (s : State) (b : Bool) : (s.setTxIe b).buf = s.buf := rfl
@[simp] theorem State.setTxIe_length (s : State) (b : Bool) : (s.setTxIe b).length = s.length := rfl
@[simp] theorem State.setTxIe_sending (s : State) (b : Bool) : (s.setTxIe b).sending = s.sending := rfl
@[simp] theorem State.setTxIe_cursor (s : State) (b : Bool) : (s.setTxIe b).cursor = s.cursor := rfl
@[simp] theorem State.setTxIe_ok (s : State) (b : Bool) : (s.setTxIe b).ok = s.ok := rfl
@[simp] theorem State.setTxIe_conv (s : State) (b : Bool) : (s.setTxIe b).conv = s.conv := rfl
@[simp] theorem State.setTxIe_encTruth (s : State) (b : Bool) : (s.setTxIe b).encTruth = s.encTruth := rfl
@[simp] theorem State.setTxIe_encLuten (s : State) (b : Bool) : (s.setTxIe b).encLuten = s.encLuten := rfl
@[simp] theorem State.setTxIe_encPeren (s : State) (b : Bool) : (s.setTxIe b).encPeren = s.encPeren := rfl
@[simp] theorem State.setTxIe_txEn (s : State) (b : Bool) : (s.setTxIe b).txEn = s.txEn := rfl
@[simp] theorem State.setTxIe_txIe (s : State) (b : Bool) : (s.setTxIe b).txIe = b := rfl
@[simp] theorem State.setTxIe_bitRate (s : State) (b : Bool) : (s.setTxIe b).bitRate = s.bitRate := rfl
@[simp] theorem State.setTxIe_txq (s : State) (b : Bool) : (s.setTxIe b).txq = s.txq := rfl
@[simp] theorem State.setTxIe_line (s : State) (b : Bool) : (s.setTxIe b).line = s.line := rfl
@[simp] theorem State.setTxIe_txLog (s : State) (b : Bool) : (s.setTxIe b).txLog = s.txLog := rfl
@[simp] theorem State.setTxIe_idleTicks (s : State) (b : Bool) : (s.setTxIe b).idleTicks = s.idleTicks := rfl
@[simp] theorem State.setTxIe_status (s : State) (b : Bool) : (s.setTxIe b).status = s.status := rfl
@[simp] theorem State.setTxIe_pc (s : State) (b : Bool) : (s.setTxIe b).pc = s.pc := rfl
@[simp] theorem State.setTxIe_stream (s : State) (b : Bool) : (s.setTxIe b).stream = s.stream := rfl
@[simp] theorem State.setTxIe_mode (s : State) (b : Bool) : (s.setTxIe b).mode = s.mode := rfl
@[simp] theorem State.setTxIe_turn (s : State) (b : Bool) : (s.setTxIe b).turn = s.turn := rfl

/-! ### `State.txLoad` -/

@[simp] theorem State.txLoad_buf (s : State) (b : Byte) : (s.txLoad b).buf = s.buf := rfl
@[simp] theorem State.txLoad_length (s : State) (b : Byte) : (s.txLoad b).length = s.length := rfl
@[simp] theorem State.txLoad_sending (s : State) (b : Byte) : (s.txLoad b).sending = s.sending := rfl
@[simp] theorem State.txLoad_cursor (s : State) (b : Byte) : (s.txLoad b).cursor = s.cursor := rfl
@[simp] theorem State.txLoad_ok (s : State) (b : Byte) : (s.txLoad b).ok = s.ok := rfl
@[simp] theorem State.txLoad_conv (s : State) (b : Byte) : (s.txLoad b).conv = s.conv := rfl
@[simp] theorem State.txLoad_encTruth (s : State) (b : Byte) : (s.txLoad b).encTruth = s.encTruth := rfl
@[simp] theorem State.txLoad_encLuten (s : State) (b : Byte) : (s.txLoad b).encLuten = s.encLuten := rfl
@[simp] theorem State.txLoad_encPeren (s : State) (b : Byte) : (s.txLoad b).encPeren = s.encPeren := rfl
@[simp] theorem State.txLoad_txEn (s : State) (b : Byte) : (s.txLoad b).txEn = s.txEn := rfl
@[simp] theorem State.txLoad_txIe (s : State) (b : Byte) : (s.txLoad b).txIe = s.txIe := rfl
@[simp] theorem State.txLoad_bitRate (s : State) (b : Byte) : (s.txLoad b).bitRate = s.bitRate := rfl
@[simp] theorem State.txLoad_txq (s : State) (b : Byte) : (s.txLoad b).txq = s.txq ++ [b] := rfl
@[simp] theorem State.txLoad_line (s : State) (b : Byte) : (s.txLoad b).line = s.line := rfl
@[simp] theorem State.txLoad_txLog (s : State) (b : Byte) : (s.txLoad b).txLog = s.txLog ++ [b] := rfl
@[simp] theorem State.txLoad_idleTicks (s : State) (b : Byte) : (s.txLoad b).idleTicks = s.idleTicks := rfl
@[simp] theorem State.txLoad_status (s : State) (b : Byte) : (s.txLoad b).status = s.status := rfl
@[simp] theorem State.txLoad_pc (s : State) (b : Byte) : (s.txLoad b).pc = s.pc := rfl
@[simp] theorem State.txLoad_stream (s : State) (b : Byte) : (s.txLoad b).stream = s.stream := rfl
@[simp] theorem State.txLoad_mode (s : State) (b : Byte) : (s.txLoad b).mode = s.mode := rfl
@[simp] theorem State.txLoad_turn (s : State) (b : Byte) : (s.txLoad b).turn = s.turn := rfl

/-! ### `State.shiftOut` -/

@[simp] theorem State.shiftOut_buf (s : State) (ls : List Level) (q : List Byte) : (s.shiftOut ls q).buf = s.buf := rfl
@[simp] theorem State.shiftOut_length (s : State) (ls : List Level) (q : List Byte) : (s.shiftOut ls q).length = s.length := rfl
@[simp] theorem State.shiftOut_sending (s : State) (ls : List Level) (q : List Byte) : (s.shiftOut ls q).sending = s.sending := rfl
@[simp] theorem State.shiftOut_cursor (s : State) (ls : List Level) (q : List Byte) : (s.shiftOut ls q).cursor = s.cursor := rfl
@[simp] theorem State.shiftOut_ok (s : State) (ls : List Level) (q : List Byte) : (s.shiftOut ls q).ok = s.ok := rfl
@[simp] theorem State.shiftOut_conv (s : State) (ls : List Level) (q : List Byte) : (s.shiftOut ls q).conv = s.conv := rfl
@[simp] theorem State.shiftOut_encTruth (s : State) (ls : List Level) (q : List Byte) : (s.shiftOut ls q).encTruth = s.encTruth := rfl
@[simp] theorem State.shiftOut_encLuten (s : State) (ls : List Level) (q : List Byte) : (s.shiftOut ls q).encLuten = s.encLuten := rfl
@[simp] theorem State.shiftOut_encPeren (s : State) (ls : List Level) (q : List Byte) : (s.shiftOut ls q).encPeren = s.encPeren := rfl
@[simp] theorem State.shiftOut_txEn (s : State) (ls : List Level) (q : List Byte) : (s.shiftOut ls q).txEn = s.txEn := rfl
@[simp] theorem State.shiftOut_txIe (s : State) (ls : List Level) (q : List Byte) : (s.shiftOut ls q).txIe = s.txIe := rfl
@[simp] theorem State.shiftOut_bitRate (s : State) (ls : List Level) (q : List Byte) : (s.shiftOut ls q).bitRate = s.bitRate := rfl
@[simp] theorem State.shiftOut_txq (s : State) (ls : List Level) (q : List Byte) : (s.shiftOut ls q).txq = q := rfl
@[simp] theorem State.shiftOut_line (s : State) (ls : List Level) (q : List Byte) : (s.shiftOut ls q).line = s.line ++ ls := rfl
@[simp] theorem State.shiftOut_txLog (s : State) (ls : List Level) (q : List Byte) : (s.shiftOut ls q).txLog = s.txLog := rfl
@[simp] theorem State.shiftOut_idleTicks (s : State) (ls : List Level) (q : List Byte) : (s.shiftOut ls q).idleTicks = s.idleTicks := rfl
@[simp] theorem State.shiftOut_status (s : State) (ls : List Level) (q : List Byte) : (s.shiftOut ls q).status = s.status := rfl
@[simp] theorem State.shiftOut_pc (s : State) (ls : List Level) (q : List Byte) : (s.shiftOut ls q).pc = s.pc := rfl
@[simp] theorem State.shiftOut_stream (s : State) (ls : List Level) (q : List Byte) : (s.shiftOut ls q).stream = s.stream := rfl
@[simp] theorem State.shiftOut_mode (s : State) (ls : List Level) (q : List Byte) : (s.shiftOut ls q).mode = s.mode := rfl
@[simp] theorem State.shiftOut_turn (s : State) (ls : List Level) (q : List Byte) : (s.shiftOut ls q).turn = s.turn := rfl

/-! ### `State.setOk` -/

@[simp] theorem State.setOk_buf (s : State) (b : Bool) : (s.setOk b).buf = s.buf := rfl
@[simp] theorem State.setOk_length (s : State) (b : Bool) : (s.setOk b).length = s.length := rfl
@[simp] theorem State.setOk_sending (s : State) (b : Bool) : (s.setOk b).sending = s.sending := rfl
@[simp] theorem State.setOk_cursor (s : State) (b : Bool) : (s.setOk b).cursor = s.cursor := rfl
@[simp] theorem State.setOk_ok (s : State) (b : Bool) : (s.setOk b).ok = b := rfl
@[simp] theorem State.setOk_conv (s : State) (b : Bool) : (s.setOk b).conv = s.conv := rfl
@[simp] theorem State.setOk_encTruth (s : State) (b : Bool) : (s.setOk b).encTruth = s.encTruth := rfl
@[simp] theorem State.setOk_encLuten (s : State) (b : Bool) : (s.setOk b).encLuten = s.encLuten := rfl
@[simp] theorem State.setOk_encPeren (s : State) (b : Bool) : (s.setOk b).encPeren = s.encPeren := rfl
@[simp] theorem State.setOk_txEn (s : State) (b : Bool) : (s.setOk b).txEn = s.txEn := rfl
@[simp] theorem State.setOk_txIe (s : State) (b : Bool) : (s.setOk b).txIe = s.txIe := rfl
@[simp] theorem State.setOk_bitRate (s : State) (b : Bool) : (s.setOk b).bitRate = s.bitRate := rfl
@[simp] theorem State.setOk_txq (s : State) (b : Bool) : (s.setOk b).txq = s.txq := rfl
@[simp] theorem State.setOk_line (s : State) (b : Bool) : (s.setOk b).line = s.line := rfl
@[simp] theorem State.setOk_txLog (s : State) (b : Bool) : (s.setOk b).txLog = s.txLog := rfl
@[simp] theorem State.setOk_idleTicks (s : State) (b : Bool) : (s.setOk b).idleTicks = s.idleTicks := rfl
@[simp] theorem State.setOk_status (s : State) (b : Bool) : (s.setOk b).status = s.status := rfl
@[simp] theorem State.setOk_pc (s : State) (b : Bool) : (s.setOk b).pc = s.pc := rfl
@[simp] theorem State.setOk_stream (s : State) (b : Bool) : (s.setOk b).stream = s.stream := rfl
@[simp] theorem State.setOk_mode (s : State) (b : Bool) : (s.setOk b).mode = s.mode := rfl
@[simp] theorem State.setOk_turn (s : State) (b : Bool) : (s.setOk b).turn = s.turn := rfl

/-! ### `State.storePacket` -/

@[simp] theorem State.storePacket_buf (s : State) (n : Byte) (bs : List Byte) : (s.storePacket n bs).buf = s.buf.writeFrom 1 bs := rfl
@[simp] theorem State.storePacket_length (s : State) (n : Byte) (bs : List Byte) : (s.storePacket n bs).length = n + 1#8 := rfl
@[simp] theorem State.storePacket_sending (s : State) (n : Byte) (bs : List Byte) : (s.storePacket n bs).sending = true := rfl
@[simp] theorem State.storePacket_cursor (s : State) (n : Byte) (bs : List Byte) : (s.storePacket n bs).cursor = s.cursor := rfl
@[simp] theorem State.storePacket_ok (s : State) (n : Byte) (bs : List Byte) : (s.storePacket n bs).ok = s.ok := rfl
@[simp] theorem State.storePacket_conv (s : State) (n : Byte) (bs : List Byte) : (s.storePacket n bs).conv = s.conv := rfl
@[simp] theorem State.storePacket_encTruth (s : State) (n : Byte) (bs : List Byte) : (s.storePacket n bs).encTruth = s.encTruth := rfl
@[simp] theorem State.storePacket_encLuten (s : State) (n : Byte) (bs : List Byte) : (s.storePacket n bs).encLuten = s.encLuten := rfl
@[simp] theorem State.storePacket_encPeren (s : State) (n : Byte) (bs : List Byte) : (s.storePacket n bs).encPeren = s.encPeren := rfl
@[simp] theorem State.storePacket_txEn (s : State) (n : Byte) (bs : List Byte) : (s.storePacket n bs).txEn = s.txEn := rfl
@[simp] theorem State.storePacket_txIe (s : State) (n : Byte) (bs : List Byte) : (s.storePacket n bs).txIe = s.txIe := rfl
@[simp] theorem State.storePacket_bitRate (s : State) (n : Byte) (bs : List Byte) : (s.storePacket n bs).bitRate = s.bitRate := rfl
@[simp] theorem State.storePacket_txq (s : State) (n : Byte) (bs : List Byte) : (s.storePacket n bs).txq = s.txq := rfl
@[simp] theorem State.storePacket_line (s : State) (n : Byte) (bs : List Byte) : (s.storePacket n bs).line = s.line := rfl
@[simp] theorem State.storePacket_txLog (s : State) (n : Byte) (bs : List Byte) : (s.storePacket n bs).txLog = s.txLog := rfl
@[simp] theorem State.storePacket_idleTicks (s : State) (n : Byte) (bs : List Byte) : (s.storePacket n bs).idleTicks = s.idleTicks := rfl
@[simp] theorem State.storePacket_status (s : State) (n : Byte) (bs : List Byte) : (s.storePacket n bs).status = s.status := rfl
@[simp] theorem State.storePacket_pc (s : State) (n : Byte) (bs : List Byte) : (s.storePacket n bs).pc = s.pc := rfl
@[simp] theorem State.storePacket_stream (s : State) (n : Byte) (bs : List Byte) : (s.storePacket n bs).stream = s.stream := rfl
@[simp] theorem State.storePacket_mode (s : State) (n : Byte) (bs : List Byte) : (s.storePacket n bs).mode = s.mode := rfl
@[simp] theorem State.storePacket_turn (s : State) (n : Byte) (bs : List Byte) : (s.storePacket n bs).turn = s.turn := rfl

/-! ### `State.addIdle` -/

@[simp] theorem State.addIdle_buf (s : State) (n : Nat) : (s.addIdle n).buf = s.buf := rfl
@[simp] theorem State.addIdle_length (s : State) (n : Nat) : (s.addIdle n).length = s.length := rfl
@[simp] theorem State.addIdle_sending (s : State) (n : Nat) : (s.addIdle n).sending = s.sending := rfl
@[simp] theorem State.addIdle_cursor (s : State) (n : Nat) : (s.addIdle n).cursor = s.cursor := rfl
@[simp] theorem State.addIdle_ok (s : State) (n : Nat) : (s.addIdle n).ok = s.ok := rfl
@[simp] theorem State.addIdle_conv (s : State) (n : Nat) : (s.addIdle n).conv = s.conv := rfl
@[simp] theorem State.addIdle_encTruth (s : State) (n : Nat) : (s.addIdle n).encTruth = s.encTruth := rfl
@[simp] theorem State.addIdle_encLuten (s : State) (n : Nat) : (s.addIdle n).encLuten = s.encLuten := rfl
@[simp] theorem State.addIdle_encPeren (s : State) (n : Nat) : (s.addIdle n).encPeren = s.encPeren := rfl
@[simp] theorem State.addIdle_txEn (s : State) (n : Nat) : (s.addIdle n).txEn = s.txEn := rfl
@[simp] theorem State.addIdle_txIe (s : State) (n : Nat) : (s.addIdle n).txIe = s.txIe := rfl
@[simp] theorem State.addIdle_bitRate (s : State) (n : Nat) : (s.addIdle n).bitRate = s.bitRate := rfl
@[simp] theorem State.addIdle_txq (s : State) (n : Nat) : (s.addIdle n).txq = s.txq := rfl
@[simp] theorem State.addIdle_line (s : State) (n : Nat) : (s.addIdle n).line = s.line := rfl
@[simp] theorem State.addIdle_txLog (s : State) (n : Nat) : (s.addIdle n).txLog = s.txLog := rfl
@[simp] theorem State.addIdle_idleTicks (s : State) (n : Nat) : (s.addIdle n).idleTicks = s.idleTicks + n := rfl
@[simp] theorem State.addIdle_status (s : State) (n : Nat) : (s.addIdle n).status = s.status := rfl
@[simp] theorem State.addIdle_pc (s : State) (n : Nat) : (s.addIdle n).pc = s.pc := rfl
@[simp] theorem State.addIdle_stream (s : State) (n : Nat) : (s.addIdle n).stream = s.stream := rfl
@[simp] theorem State.addIdle_mode (s : State) (n : Nat) : (s.addIdle n).mode = s.mode := rfl
@[simp] theorem State.addIdle_turn (s : State) (n : Nat) : (s.addIdle n).turn = s.turn := rfl

/-! ### `State.setCursor` -/

@[simp] theorem State.setCursor_buf (s : State) (c : BitVec 8) : (s.setCursor c).buf = s.buf := rfl
@[simp] theorem State.setCursor_length (s : State) (c : BitVec 8) : (s.setCursor c).length = s.length := rfl
@[simp] theorem State.setCursor_sending (s : State) (c : BitVec 8) : (s.setCursor c).sending = s.sending := rfl
@[simp] theorem State.setCursor_cursor (s : State) (c : BitVec 8) : (s.setCursor c).cursor = c := rfl
@[simp] theorem State.setCursor_ok (s : State) (c : BitVec 8) : (s.setCursor c).ok = s.ok := rfl
@[simp] theorem State.setCursor_conv (s : State) (c : BitVec 8) : (s.setCursor c).conv = s.conv := rfl
@[simp] theorem State.setCursor_encTruth (s : State) (c : BitVec 8) : (s.setCursor c).encTruth = s.encTruth := rfl
@[simp] theorem State.setCursor_encLuten (s : State) (c : BitVec 8) : (s.setCursor c).encLuten = s.encLuten := rfl
@[simp] theorem State.setCursor_encPeren (s : State) (c : BitVec 8) : (s.setCursor c).encPeren = s.encPeren := rfl
@[simp] theorem State.setCursor_txEn (s : State) (c : BitVec 8) : (s.setCursor c).txEn = s.txEn := rfl
@[simp] theorem State.setCursor_txIe (s : State) (c : BitVec 8) : (s.setCursor c).txIe = s.txIe := rfl
@[simp] theorem State.setCursor_bitRate (s : State) (c : BitVec 8) : (s.setCursor c).bitRate = s.bitRate := rfl
@[simp] theorem State.setCursor_txq (s : State) (c : BitVec 8) : (s.setCursor c).txq = s.txq := rfl
@[simp] theorem State.setCursor_line (s : State) (c : BitVec 8) : (s.setCursor c).line = s.line := rfl
@[simp] theorem State.setCursor_txLog (s : State) (c : BitVec 8) : (s.setCursor c).txLog = s.txLog := rfl
@[simp] theorem State.setCursor_idleTicks (s : State) (c : BitVec 8) : (s.setCursor c).idleTicks = s.idleTicks := rfl
@[simp] theorem State.setCursor_status (s : State) (c : BitVec 8) : (s.setCursor c).status = s.status := rfl
@[simp] theorem State.setCursor_pc (s : State) (c : BitVec 8) : (s.setCursor c).pc = s.pc := rfl
@[simp] theorem State.setCursor_stream (s : State) (c : BitVec 8) : (s.setCursor c).stream = s.stream := rfl
@[simp] theorem State.setCursor_mode (s : State) (c : BitVec 8) : (s.setCursor c).mode = s.mode := rfl
@[simp] theorem State.setCursor_turn (s : State) (c : BitVec 8) : (s.setCursor c).turn = s.turn := rfl

/-! ### `State.completePacket` -/

@[simp] theorem State.completePacket_buf (s : State) : s.completePacket.buf = s.buf := rfl
@[simp] theorem State.completePacket_length (s : State) : s.completePacket.length = s.length := rfl
@[simp] theorem State.completePacket_sending (s : State) : s.completePacket.sending = false := rfl
@[simp] theorem State.completePacket_cursor (s : State) : s.completePacket.cursor = 0#8 := rfl
@[simp] theorem State.completePacket_ok (s : State) : s.completePacket.ok = s.ok := rfl
@[simp] theorem State.completePacket_conv (s : State) : s.completePacket.conv = s.conv := rfl
@[simp] theorem State.completePacket_encTruth (s : State) : s.completePacket.encTruth = s.encTruth := rfl
@[simp] theorem State.completePacket_encLuten (s : State) : s.completePacket.encLuten = s.encLuten := rfl
@[simp] theorem State.completePacket_encPeren (s : State) : s.completePacket.encPeren = s.encPeren := rfl
@[simp] theorem State.completePacket_txEn (s : State) : s.completePacket.txEn = s.txEn := rfl
@[simp] theorem State.completePacket_txIe (s : State) : s.completePacket.txIe = false := rfl
@[simp] theorem State.completePacket_bitRate (s : State) : s.completePacket.bitRate = s.bitRate := rfl
@[simp] theorem State.completePacket_txq (s : State) : s.completePacket.txq = s.txq := rfl
@[simp] theorem State.completePacket_line (s : State) : s.completePacket.line = s.line := rfl
@[simp] theorem State.completePacket_txLog (s : State) : s.completePacket.txLog = s.txLog := rfl
@[simp] theorem State.completePacket_idleTicks (s : State) : s.completePacket.idleTicks = 0 := rfl
@[simp] theorem State.completePacket_status (s : State) : s.completePacket.status = s.status := rfl
@[simp] theorem State.completePacket_pc (s : State) : s.completePacket.pc = s.pc := rfl
@[simp] theorem State.completePacket_stream (s : State) : s.completePacket.stream = s.stream := rfl
@[simp] theorem State.completePacket_mode (s : State) : s.completePacket.mode = s.mode := rfl
@[simp] theorem State.completePacket_turn (s : State) : s.completePacket.turn = s.turn := rfl

/-! ### `State.passMarker` -/

@[simp] theorem State.passMarker_buf (s : State) : s.passMarker.buf = s.buf := by unfold State.passMarker; split <;> rfl
@[simp] theorem State.passMarker_length (s : State) : s.passMarker.length = s.length := by unfold State.passMarker; split <;> rfl
@[simp] theorem State.passMarker_sending (s : State) : s.passMarker.sending = s.sending := by unfold State.passMarker; split <;> rfl
@[simp] theorem State.passMarker_cursor (s : State) : s.passMarker.cursor = s.cursor := by unfold State.passMarker; split <;> rfl
@[simp] theorem State.passMarker_ok (s : State) : s.passMarker.ok = s.ok := by unfold State.passMarker; split <;> rfl
@[simp] theorem State.passMarker_conv (s : State) : s.passMarker.conv = s.conv := by unfold State.passMarker; split <;> rfl
@[simp] theorem State.passMarker_encTruth (s : State) : s.passMarker.encTruth = s.encTruth := by unfold State.passMarker; split <;> rfl
@[simp] theorem State.passMarker_encLuten (s : State) : s.passMarker.encLuten = s.encLuten := by unfold State.passMarker; split <;> rfl
@[simp] theorem State.passMarker_encPeren (s : State) : s.passMarker.encPeren = s.encPeren := by unfold State.passMarker; split <;> rfl
@[simp] theorem State.passMarker_txEn (s : State) : s.passMarker.txEn = s.txEn := by unfold State.passMarker; split <;> rfl
@[simp] theorem State.passMarker_txIe (s : State) : s.passMarker.txIe = s.txIe := by unfold State.passMarker; split <;> rfl
@[simp] theorem State.passMarker_bitRate (s : State) : s.passMarker.bitRate = s.bitRate := by unfold State.passMarker; split <;> rfl
@[simp] theorem State.passMarker_txq (s : State) : s.passMarker.txq = s.txq := by unfold State.passMarker; split <;> rfl
@[simp] theorem State.passMarker_line (s : State) : s.passMarker.line = s.line := by unfold State.passMarker; split <;> rfl
@[simp] theorem State.passMarker_txLog (s : State) : s.passMarker.txLog = s.txLog := by unfold State.passMarker; split <;> rfl
@[simp] theorem State.passMarker_idleTicks (s : State) : s.passMarker.idleTicks = s.idleTicks := by unfold State.passMarker; split <;> rfl
@[simp] theorem State.passMarker_status (s : State) : s.passMarker.status = s.status := by unfold State.passMarker; split <;> rfl
@[simp] theorem State.passMarker_stream (s : State) : s.passMarker.stream = s.stream := by unfold State.passMarker; split <;> rfl
@[simp] theorem State.passMarker_mode (s : State) : s.passMarker.mode = s.mode := by unfold State.passMarker; split <;> rfl
@[simp] theorem State.passMarker_turn (s : State) : s.passMarker.turn = s.turn := by unfold State.passMarker; split <;> rfl
@[simp] theorem State.passMarker_pc (s : State) : s.passMarker.pc = if s.mode = .scripted then s.pc + 1 else s.pc := by
  unfold State.passMarker; split <;> simp [*]

/-- A marker's byte is passed in scripted mode. -/
theorem State.passMarker_of_scripted {s : State} (h : s.mode = .scripted) : s.passMarker = s.advance 1 := by simp [State.passMarker, h]

/-- In free mode an event has no encoding. -/
theorem State.passMarker_of_free {s : State} (h : s.mode = .free) : s.passMarker = s := by simp [State.passMarker, h]

end Sys2Proof.Machine
end

