-- ==== Sys2Proof/Laws/Ops.lean ====
section
/-! SUPPORT. What each shared operation can do, said once: the ways a step ends, the derived signals, the operand forms,
and the encoder's functions. -/

namespace Sys2Proof.Machine

/-! ### How a step ends -/

theorem ifRunning_of_running {s : State} (h : s.status = .running) (k : Result) : ifRunning s k = k := by
  simp [ifRunning, h]

/-- An operation gives a next state only from a running machine. -/
theorem ifRunning_next {s t : State} {k : Result} : ifRunning s k = .next t ↔ s.status = .running ∧ k = .next t := by
  unfold ifRunning
  split <;> simp [*]

theorem ifRunning_of_faulted {s : State} {c : Fault} (h : s.status = .faulted c) (k : Result) :
    ifRunning s k = .fault c := by
  simp [ifRunning, h]

theorem ifRunning_of_refused {s : State} {c : RefusalCode} (h : s.status = .refused c) (k : Result) :
    ifRunning s k = .refused (.recorded c) := by
  simp [ifRunning, h]

theorem takeFault_next {c : Fault} {s t : State} : takeFault c s = .next t ↔ t = s.setStatus (.faulted c) := by
  simp [takeFault, eq_comm]

theorem takeRefusal_next {c : RefusalCode} {s t : State} : takeRefusal c s = .next t ↔ t = s.setStatus (.refused c) := by
  simp [takeRefusal, eq_comm]

@[simp] theorem enterHandler_eq (s : State) : enterHandler s = s := rfl

@[simp] theorem leaveHandler_eq (r : Result) : leaveHandler r = r := rfl

/-- A marker whose event is not enabled is refused in scripted mode; in free mode nothing happens. -/
theorem eventNotEnabled_next {s t : State} :
    eventNotEnabled s = .next t ↔
      (s.mode = .scripted ∧ t = s.setStatus (.refused .eventNotEnabled)) ∨ (s.mode = .free ∧ t = s) := by
  unfold eventNotEnabled
  split
  · rename_i hm
    rw [takeRefusal_next]; simp [hm]
  · rename_i hm
    simp [hm, eq_comm]

/-! ### The 8-bit registers as numbers -/

theorem byte_lt {a b : BitVec 8} : a < b ↔ a.toNat < b.toNat := Iff.rfl

theorem byte_le {a b : BitVec 8} : a ≤ b ↔ a.toNat ≤ b.toNat := Iff.rfl

/-- `cursor + 1` does not wrap where DRAIN's first row applies (R214). -/
theorem cursor_succ {c l : BitVec 8} (h : c < l) : (c + 1#8).toNat = c.toNat + 1 := by bv_omega

/-- `n + 1` does not wrap where SUBMIT accepts (R214). -/
theorem length_succ {n : Byte} (h : n.toNat ≤ 254) : (n + 1#8).toNat = n.toNat + 1 := by bv_omega

/-! ### The derived signals -/

theorem encOn_eq_true {s : State} : encOn s = true ↔ s.encLuten = true ∧ s.encPeren = true := by
  simp [encOn]

theorem dre_eq_true {p : Params} {s : State} : dre p s = true ↔ s.txEn = true ∧ s.txq.length < p.txStages := by
  simp [dre]

theorem irq_eq_true {p : Params} {s : State} :
    irq p s = true ↔ s.txIe = true ∧ s.txEn = true ∧ s.txq.length < p.txStages := by
  simp [irq, dre_eq_true]

/-- `TX_STAGES` is at least 1. -/
theorem Params.txStages_pos (p : Params) : 0 < p.txStages := Nat.succ_pos _

/-- An initialised, empty transmitter is ready whatever its depth. -/
theorem dre_of_empty {p : Params} {s : State} (he : s.txEn = true) (hq : s.txq = []) : dre p s = true := by
  simp [dre_eq_true, he, hq, Params.txStages_pos]

/-! ### The operand forms -/

theorem conventionOf_eq_none {b : Byte} : conventionOf b = none ↔ b ≠ 0x00#8 ∧ b ≠ 0x01#8 := by
  unfold conventionOf
  split
  · simp_all
  · split <;> simp_all

@[simp] theorem conventionOf_code (c : Convention) : conventionOf (conventionCode c) = some c := by
  cases c <;> rfl

theorem payloadBytes_length {n : Byte} {data : List Byte} (h : n.toNat ≤ data.length) :
    (payloadBytes n data).length = n.toNat := by
  simp [payloadBytes, h]

theorem payloadBytes_of_length {n : Byte} {data : List Byte} (h : data.length = n.toNat) :
    payloadBytes n data = data := by
  simp [payloadBytes, ← h]

/-- A cell outside the payload's offsets reads as before. -/
theorem read_payload_outside {m : Memory} {n : Byte} {data : List Byte} (hd : n.toNat ≤ data.length) {a : Nat}
    (h : a = 0 ∨ n.toNat < a) : (m.writeFrom 1 (payloadBytes n data)).read a = m.read a := by
  refine Memory.read_writeFrom_outside _ ?_
  rw [payloadBytes_length hd]
  omega

theorem guardTicks_of_rate {r : BitVec 32} (h : r ≠ 0#32) :
    guardTicks (some r) = (Config.guardK + r.toNat - 1) / r.toNat := by
  simp [guardTicks, h, cdiv]

/-! ### The encoder's functions -/

@[simp] theorem manchPacket_nil (p : Params) (t : BitVec 4) : manchPacket p t [] = [] := rfl

theorem manchPacket_append (p : Params) (t : BitVec 4) (xs ys : List Byte) :
    manchPacket p t (xs ++ ys) = manchPacket p t xs ++ manchPacket p t ys := by
  simp [manchPacket]

theorem manchPacket_singleton (p : Params) (t : BitVec 4) (b : Byte) : manchPacket p t [b] = manchByte p t b := by
  simp [manchPacket]

@[simp] theorem truthOf_configure (s : State) (c : Convention) (t : BitVec 4) : truthOf (s.configure c t) = t := rfl

/-- A byte frame has 16 levels. -/
theorem manchByte_length (p : Params) (t : BitVec 4) (b : Byte) : (manchByte p t b).length = 16 := by
  simp [manchByte, wireBits, Config.frameBits, List.range_succ, manchBit]

theorem truthOf_congr {s t : State} (h : t.encTruth = s.encTruth) : truthOf t = truthOf s := by
  simp [truthOf, h]

end Sys2Proof.Machine
end

