-- ==== Sys2Proof/Laws/Meanings.lean ====
section
/-! SUPPORT. One inversion lemma per meaning: if it answers a next state, the machine was running and one of the listed
cases holds. Every later fact about a step is read off these. -/

namespace Sys2Proof.Machine

variable {s t : State}

theorem execCfgenc_cases {b : Byte} (h : execCfgenc b s = .next t) :
    s.status = .running ∧
      ((conventionOf b = none ∧ t = s.setStatus (.refused .illegalOperand)) ∨
        ∃ c, conventionOf b = some c ∧
          ((s.conv ≠ none ∧ t = s.setStatus (.refused .reconfigure)) ∨
            (s.conv = none ∧ t = (s.configure c (conventionTruth c)).advance 2))) := by
  obtain ⟨hr, h⟩ := ifRunning_next.1 h
  refine ⟨hr, ?_⟩
  split at h
  · exact .inl ⟨by assumption, takeRefusal_next.1 h⟩
  · rename_i c hc
    refine .inr ⟨c, hc, ?_⟩
    split at h
    · exact .inr ⟨by assumption, by simpa [eq_comm] using h⟩
    · exact .inl ⟨by assumption, takeRefusal_next.1 h⟩

theorem execTxinit_cases {r : BitVec 32} (h : execTxinit r s = .next t) :
    s.status = .running ∧
      ((encOn s = false ∧ t = s.setStatus (.refused .initOrder)) ∨
        (encOn s = true ∧ s.txEn = true ∧ t = s.setStatus (.refused .reinit)) ∨
        (encOn s = true ∧ s.txEn = false ∧ r.toNat < Config.minBitRate ∧ t = s.setStatus (.faulted .rateRange)) ∨
        (encOn s = true ∧ s.txEn = false ∧ Config.minBitRate ≤ r.toNat ∧ t = (s.initialise r).advance 5)) := by
  obtain ⟨hr, h⟩ := ifRunning_next.1 h
  refine ⟨hr, ?_⟩
  split at h
  · exact .inl ⟨by assumption, takeRefusal_next.1 h⟩
  · rename_i he
    simp only [Bool.not_eq_false] at he
    split at h
    · exact .inr (.inl ⟨he, by assumption, takeRefusal_next.1 h⟩)
    · rename_i hx
      simp only [Bool.not_eq_true] at hx
      split at h
      · exact .inr (.inr (.inl ⟨he, hx, by assumption, takeFault_next.1 h⟩))
      · exact .inr (.inr (.inr ⟨he, hx, by omega, by simpa [eq_comm] using h⟩))

theorem execTxien_cases (h : execTxien s = .next t) :
    s.status = .running ∧
      ((s.txEn = false ∧ t = s.setStatus (.refused .txNotInitialised)) ∨
        (s.txEn = true ∧ s.sending = true ∧ s.idleTicks < guardTicks s.bitRate ∧
          t = s.setStatus (.faulted .guardViolation)) ∨
        (s.txEn = true ∧ (s.sending = true → guardTicks s.bitRate ≤ s.idleTicks) ∧
          t = (s.setTxIe true).advance 1)) := by
  obtain ⟨hr, h⟩ := ifRunning_next.1 h
  refine ⟨hr, ?_⟩
  split at h
  · exact .inl ⟨by assumption, takeRefusal_next.1 h⟩
  · rename_i he
    simp only [Bool.not_eq_false] at he
    split at h
    · rename_i hg
      exact .inr (.inl ⟨he, hg.1, hg.2, takeFault_next.1 h⟩)
    · rename_i hg
      exact .inr (.inr ⟨he, fun hs => by by_contra hn; exact hg ⟨hs, by omega⟩, by simpa [eq_comm] using h⟩)

theorem execTxidis_cases (h : execTxidis s = .next t) :
    s.status = .running ∧
      ((s.txEn = false ∧ t = s.setStatus (.refused .txNotInitialised)) ∨
        (s.txEn = true ∧ t = (s.setTxIe false).advance 1)) := by
  obtain ⟨hr, h⟩ := ifRunning_next.1 h
  refine ⟨hr, ?_⟩
  split at h
  · exact .inl ⟨by assumption, takeRefusal_next.1 h⟩
  · rename_i he
    exact .inr ⟨by simpa using he, by simpa [eq_comm] using h⟩

theorem loadbWith_cases {p : Params} {b : Byte} (h : loadbWith p b s = .next t) :
    s.status = .running ∧
      ((s.txEn = false ∧ t = s.setStatus (.refused .txNotInitialised)) ∨
        (s.txEn = true ∧ s.sending = true ∧ t = s.setStatus (.refused .loadWhileSending)) ∨
        (s.txEn = true ∧ s.sending = false ∧ dre p s = false ∧ t = s.setStatus (.refused .txNotReady)) ∨
        (s.txEn = true ∧ s.sending = false ∧ dre p s = true ∧ t = (s.txLoad b).advance 2)) := by
  obtain ⟨hr, h⟩ := ifRunning_next.1 h
  refine ⟨hr, ?_⟩
  split at h
  · exact .inl ⟨by assumption, takeRefusal_next.1 h⟩
  · rename_i he
    simp only [Bool.not_eq_false] at he
    split at h
    · exact .inr (.inl ⟨he, by assumption, takeRefusal_next.1 h⟩)
    · rename_i hs
      simp only [Bool.not_eq_true] at hs
      split at h
      · exact .inr (.inr (.inl ⟨he, hs, by assumption, takeRefusal_next.1 h⟩))
      · rename_i hd
        exact .inr (.inr (.inr ⟨he, hs, by simpa using hd, by simpa [eq_comm] using h⟩))

theorem execSubmit_cases {n : Byte} {data : List Byte} (h : execSubmit n data s = .next t) :
    s.status = .running ∧ n.toNat ≤ data.length ∧
      ((Config.maxPayload < n.toNat ∧ t = s.setStatus (.refused .submitTooLong)) ∨
        (n.toNat ≤ Config.maxPayload ∧ s.sending = true ∧ t = (s.setOk false).advance (2 + n.toNat)) ∨
        (n.toNat ≤ Config.maxPayload ∧ s.sending = false ∧ s.txIe = true ∧
          t = s.setStatus (.refused .submitWhileEnabled)) ∨
        (n.toNat ≤ Config.maxPayload ∧ s.sending = false ∧ s.txIe = false ∧
          t = ((s.storePacket n (payloadBytes n data)).setOk true).advance (2 + n.toNat))) := by
  obtain ⟨hr, h⟩ := ifRunning_next.1 h
  split at h
  · cases h
  · refine ⟨hr, by omega, ?_⟩
    split at h
    · exact .inl ⟨by assumption, takeRefusal_next.1 h⟩
    · have hn : n.toNat ≤ Config.maxPayload := by omega
      split at h
      · exact .inr (.inl ⟨hn, by assumption, by simpa [eq_comm] using h⟩)
      · rename_i hs
        simp only [Bool.not_eq_true] at hs
        split at h
        · exact .inr (.inr (.inl ⟨hn, hs, by assumption, takeRefusal_next.1 h⟩))
        · rename_i hi
          exact .inr (.inr (.inr ⟨hn, hs, by simpa using hi, by simpa [eq_comm] using h⟩))

theorem execGuard_cases (h : execGuard s = .next t) :
    s.status = .running ∧
      ((s.txEn = false ∧ t = s.setStatus (.refused .txNotInitialised)) ∨
        (s.txEn = true ∧ t = (s.addIdle (guardTicks s.bitRate)).advance 1)) := by
  obtain ⟨hr, h⟩ := ifRunning_next.1 h
  refine ⟨hr, ?_⟩
  split at h
  · exact .inl ⟨by assumption, takeRefusal_next.1 h⟩
  · rename_i he
    exact .inr ⟨by simpa using he, by simpa [eq_comm] using h⟩

/-- An event that was not enabled: refused in scripted mode, nothing in free mode. -/
abbrev NotEnabledCase (s t : State) : Prop :=
  (s.mode = .scripted ∧ t = s.setStatus (.refused .eventNotEnabled)) ∨ (s.mode = .free ∧ t = s)

theorem shiftWith_cases {p : Params} (h : shiftWith p s = .next t) :
    s.status = .running ∧
      ((shiftEnabled s = false ∧ NotEnabledCase s t) ∨
        ∃ b rest, s.txEn = true ∧ s.txq = b :: rest ∧
          t = (s.shiftOut (manchByte p (truthOf s) b) rest).passMarker) := by
  obtain ⟨hr, h⟩ := ifRunning_next.1 h
  refine ⟨hr, ?_⟩
  split at h
  · rename_i he
    simp only [shiftEnabled, Bool.and_eq_true, Bool.not_eq_true', List.isEmpty_eq_false_iff] at he
    unfold shiftEvent at h
    split at h
    · rename_i hq
      exact absurd hq he.2
    · rename_i b rest hq
      exact .inr ⟨b, rest, he.1, hq, by simpa [eq_comm] using h⟩
  · rename_i he
    exact .inl ⟨by simpa using he, eventNotEnabled_next.1 h⟩

theorem drainEvent_cases (h : drainEvent s = .next t) :
    (s.cursor < s.length ∧
        ((s.sending = false ∧ t = s.setStatus (.faulted .staleDrain)) ∨
          (s.sending = true ∧ s.buf.read s.cursor.toNat = none ∧ t = s.setStatus (.faulted .unwrittenRead)) ∨
          (s.sending = true ∧ ∃ b, s.buf.read s.cursor.toNat = some b ∧
            t = ((s.txLoad b).setCursor (s.cursor + 1#8)).passMarker))) ∨
      (s.cursor = s.length ∧ t = s.completePacket.passMarker) ∨
      (s.length < s.cursor ∧ t = s.setStatus (.faulted .cursorInvariant)) := by
  unfold drainEvent at h
  split at h
  · rename_i hlt
    refine .inl ⟨hlt, ?_⟩
    split at h
    · exact .inl ⟨by assumption, takeFault_next.1 h⟩
    · rename_i hs
      simp only [Bool.not_eq_false] at hs
      split at h
      · exact .inr (.inl ⟨hs, by assumption, takeFault_next.1 h⟩)
      · rename_i b hb
        exact .inr (.inr ⟨hs, b, hb, by simpa [eq_comm] using h⟩)
  · rename_i hlt
    split at h
    · exact .inr (.inl ⟨by assumption, by simpa [eq_comm] using h⟩)
    · rename_i hne
      exact .inr (.inr ⟨by bv_omega, takeFault_next.1 h⟩)

theorem drainWith_cases {p : Params} (h : drainWith p s = .next t) :
    s.status = .running ∧
      ((irq p s = false ∧ NotEnabledCase s t) ∨ (irq p s = true ∧ drainEvent s = .next t)) := by
  obtain ⟨hr, h⟩ := ifRunning_next.1 h
  refine ⟨hr, ?_⟩
  split at h
  · exact .inr ⟨by assumption, h⟩
  · rename_i he
    exact .inl ⟨by simpa using he, eventNotEnabled_next.1 h⟩

/-- DRAIN's first row. -/
theorem drain_loads {b : Byte} (hr : s.status = .running) (hq : irq Config.params s = true) (hc : s.cursor < s.length)
    (hs : s.sending = true) (hb : s.buf.read s.cursor.toNat = some b) :
    exec .drain s = .next ((s.txLoad b).setCursor (s.cursor + 1#8)).passMarker := by
  simp [exec, execDrain, drainWith, ifRunning, hr, hq, drainEvent, hc, hs, hb]

/-- DRAIN's second row. -/
theorem drain_completes (hr : s.status = .running) (hq : irq Config.params s = true) (hc : s.cursor = s.length) :
    exec .drain s = .next s.completePacket.passMarker := by
  simp [exec, execDrain, drainWith, ifRunning, hr, hq, drainEvent, hc]

/-- In free mode a DRAIN that is not enabled does nothing. -/
theorem drain_waits (hr : s.status = .running) (hm : s.mode = .free) (hq : irq Config.params s = false) :
    exec .drain s = .next s := by
  simp [exec, execDrain, drainWith, ifRunning, hr, hq, eventNotEnabled, hm]

/-- SHIFT of the byte at the head of `txq`. -/
theorem shift_sends {b : Byte} {rest : List Byte} (hr : s.status = .running) (hx : s.txEn = true)
    (hq : s.txq = b :: rest) :
    exec .shift s = .next (s.shiftOut (manchByte Config.params (truthOf s) b) rest).passMarker := by
  simp [exec, execShift, shiftWith, ifRunning, hr, hx, hq, shiftEnabled, shiftEvent]

/-- In free mode a SHIFT that is not enabled does nothing. -/
theorem shift_waits (hr : s.status = .running) (hm : s.mode = .free) (hq : s.txq = []) : exec .shift s = .next s := by
  simp [exec, execShift, shiftWith, ifRunning, hr, shiftEnabled, hq, eventNotEnabled, hm]

/-- No operation gives a next state from a machine that is not running (R221, R222). -/
theorem exec_running {i : Instr} (h : exec i s = .next t) : s.status = .running := by
  cases i with
  | cfgenc b => exact (execCfgenc_cases h).1
  | txinit r => exact (execTxinit_cases h).1
  | txien => exact (execTxien_cases h).1
  | txidis => exact (execTxidis_cases h).1
  | loadb b => exact (loadbWith_cases h).1
  | submit n data => exact (execSubmit_cases h).1
  | guard => exact (execGuard_cases h).1
  | drain => exact (drainWith_cases h).1
  | shift => exact (shiftWith_cases h).1

/-- A running machine has a next state under every operation whose payload is whole (R81): no operation stops it otherwise. -/
theorem exec_answers {i : Instr} (hr : s.status = .running) (hw : i.WellFormed = true) : ∃ t, exec i s = .next t := by
  cases i with
  | cfgenc b =>
    simp only [exec, execCfgenc, ifRunning_of_running hr]
    split
    · exact ⟨_, rfl⟩
    · split <;> exact ⟨_, rfl⟩
  | submit n data =>
    simp only [Instr.WellFormed, beq_iff_eq] at hw
    simp only [exec, execSubmit, ifRunning_of_running hr, hw, lt_irrefl, if_false]
    repeat' split
    all_goals exact ⟨_, rfl⟩
  | drain =>
    simp only [exec, execDrain, drainWith, ifRunning_of_running hr, leaveHandler_eq, enterHandler_eq, eventNotEnabled]
    split
    · unfold drainEvent
      by_cases hc : s.cursor < s.length <;> simp only [hc, if_true, if_false]
      · by_cases hs : s.sending = false <;> simp only [hs, if_true]
        · exact ⟨_, rfl⟩
        · cases s.buf.read s.cursor.toNat <;> exact ⟨_, rfl⟩
      · by_cases hl : s.cursor = s.length <;> simp only [hl, if_true, if_false] <;> exact ⟨_, rfl⟩
    · split <;> exact ⟨_, rfl⟩
  | _ =>
    simp only [exec, execTxinit, execTxien, execTxidis, execLoadb, loadbWith, execGuard, execShift, shiftWith, shiftEvent,
      eventNotEnabled, ifRunning_of_running hr]
    repeat' split
    all_goals exact ⟨_, rfl⟩

/-- What an operation can do to the state, said once for all of them: end the run by recording a fault or a refusal,
leave everything as it was (an event that is not enabled, in free mode), or have its own effect. -/
inductive Effect : Instr → State → State → Prop where
  | stops {i : Instr} {s : State} {st : Status} (h : st ≠ .running) : Effect i s (s.setStatus st)
  | nothing {i : Instr} {s : State} (hm : s.mode = .free) (hi : i.isMarker = true) : Effect i s s
  | cfgenc {b : Byte} {s : State} {c : Convention} (hb : conventionOf b = some c) (hc : s.conv = none) :
      Effect (.cfgenc b) s ((s.configure c (conventionTruth c)).advance 2)
  | txinit {r : BitVec 32} {s : State} (he : encOn s = true) (hx : s.txEn = false)
      (hr : Config.minBitRate ≤ r.toNat) : Effect (.txinit r) s ((s.initialise r).advance 5)
  | txien {s : State} (hx : s.txEn = true) (hg : s.sending = true → guardTicks s.bitRate ≤ s.idleTicks) :
      Effect .txien s ((s.setTxIe true).advance 1)
  | txidis {s : State} (hx : s.txEn = true) : Effect .txidis s ((s.setTxIe false).advance 1)
  | loadb {b : Byte} {s : State} (hx : s.txEn = true) (hs : s.sending = false)
      (hq : s.txq.length < Config.params.txStages) : Effect (.loadb b) s ((s.txLoad b).advance 2)
  | busy {n : Byte} {data : List Byte} {s : State} (hd : n.toNat ≤ data.length) (hn : n.toNat ≤ 254)
      (hs : s.sending = true) :
      Effect (.submit n data) s ((s.setOk false).advance (2 + n.toNat))
  | accepted {n : Byte} {data : List Byte} {s : State} (hd : n.toNat ≤ data.length) (hn : n.toNat ≤ 254)
      (hs : s.sending = false) (hi : s.txIe = false) :
      Effect (.submit n data) s (((s.storePacket n (payloadBytes n data)).setOk true).advance (2 + n.toNat))
  | guard {s : State} (hx : s.txEn = true) : Effect .guard s ((s.addIdle (guardTicks s.bitRate)).advance 1)
  | load {s : State} {b : Byte} (hi : s.txIe = true) (hx : s.txEn = true)
      (hq : s.txq.length < Config.params.txStages) (hc : s.cursor < s.length) (hs : s.sending = true)
      (hb : s.buf.read s.cursor.toNat = some b) :
      Effect .drain s ((s.txLoad b).setCursor (s.cursor + 1#8)).passMarker
  | complete {s : State} (hi : s.txIe = true) (hx : s.txEn = true) (hq : s.txq.length < Config.params.txStages)
      (hc : s.cursor = s.length) : Effect .drain s s.completePacket.passMarker
  | shift {s : State} {b : Byte} {rest : List Byte} (hx : s.txEn = true) (hq : s.txq = b :: rest) :
      Effect .shift s (s.shiftOut (manchByte Config.params (truthOf s) b) rest).passMarker

/-- Every next state of `exec` is one of the listed effects. -/
theorem exec_effect {i : Instr} (h : exec i s = .next t) : Effect i s t := by
  cases i with
  | cfgenc b =>
    rcases (execCfgenc_cases h).2 with ⟨-, rfl⟩ | ⟨c, hc, ⟨-, rfl⟩ | ⟨hn, rfl⟩⟩
    exacts [.stops nofun, .stops nofun, .cfgenc hc hn]
  | txinit r =>
    rcases (execTxinit_cases h).2 with ⟨-, rfl⟩ | ⟨-, -, rfl⟩ | ⟨-, -, -, rfl⟩ | ⟨he, hx, hr, rfl⟩
    exacts [.stops nofun, .stops nofun, .stops nofun, .txinit he hx hr]
  | txien =>
    rcases (execTxien_cases h).2 with ⟨-, rfl⟩ | ⟨-, -, -, rfl⟩ | ⟨hx, hg, rfl⟩
    exacts [.stops nofun, .stops nofun, .txien hx hg]
  | txidis =>
    rcases (execTxidis_cases h).2 with ⟨-, rfl⟩ | ⟨hx, rfl⟩
    exacts [.stops nofun, .txidis hx]
  | loadb b =>
    rcases (loadbWith_cases h).2 with ⟨-, rfl⟩ | ⟨-, -, rfl⟩ | ⟨-, -, -, rfl⟩ | ⟨hx, hs, hd, rfl⟩
    exacts [.stops nofun, .stops nofun, .stops nofun, .loadb hx hs (dre_eq_true.1 hd).2]
  | submit n data =>
    obtain ⟨-, hd, h⟩ := execSubmit_cases h
    rcases h with ⟨-, rfl⟩ | ⟨hn, hs, rfl⟩ | ⟨-, -, -, rfl⟩ | ⟨hn, hs, hi, rfl⟩
    exacts [.stops nofun, .busy hd hn hs, .stops nofun, .accepted hd hn hs hi]
  | guard =>
    rcases (execGuard_cases h).2 with ⟨-, rfl⟩ | ⟨hx, rfl⟩
    exacts [.stops nofun, .guard hx]
  | drain =>
    rcases (drainWith_cases h).2 with ⟨-, ⟨-, rfl⟩ | ⟨hm, rfl⟩⟩ | ⟨hq, hd⟩
    · exact .stops nofun
    · exact .nothing hm rfl
    · obtain ⟨hi, hx, hq⟩ := irq_eq_true.1 hq
      rcases drainEvent_cases hd with ⟨hc, ⟨-, rfl⟩ | ⟨-, -, rfl⟩ | ⟨hs, b, hb, rfl⟩⟩ | ⟨hc, rfl⟩ | ⟨-, rfl⟩
      exacts [.stops nofun, .stops nofun, .load hi hx hq hc hs hb, .complete hi hx hq hc, .stops nofun]
  | shift =>
    rcases (shiftWith_cases h).2 with ⟨-, ⟨-, rfl⟩ | ⟨hm, rfl⟩⟩ | ⟨b, rest, hx, hq, rfl⟩
    exacts [.stops nofun, .nothing hm rfl, .shift hx hq]

end Sys2Proof.Machine
end

