-- ==== Sys2Proof/Laws/PerInstr.lean ====
section
/-! SUPPORT. Statements for all instructions, one lemma per constructor. `Length` is the length rule of
`30_encoding.md` rule R108: a well-formed command's encoding has the length its opcode (and `n8`) gives, and begins with
its opcode. -/

namespace Sys2Proof.Laws

/-- The encoding of a well-formed command has `Instr.size` bytes, and its first byte is an opcode of the map. -/
def Length.Statement (i : Instr) : Prop :=
  i.WellFormed = true → (encode i).length = i.size ∧ ∃ o ∈ opcodes, (encode i).head? = some o.byte

theorem Length.cfgenc (conv8 : Byte) : Length.Statement (.cfgenc conv8) := fun _ => ⟨rfl, .cfgenc, by decide, rfl⟩

theorem Length.txinit (rate : BitVec 32) : Length.Statement (.txinit rate) := fun _ => ⟨rfl, .txinit, by decide, rfl⟩

theorem Length.txien : Length.Statement .txien := fun _ => ⟨rfl, .txien, by decide, rfl⟩

theorem Length.txidis : Length.Statement .txidis := fun _ => ⟨rfl, .txidis, by decide, rfl⟩

theorem Length.loadb (b : Byte) : Length.Statement (.loadb b) := fun _ => ⟨rfl, .loadb, by decide, rfl⟩

theorem Length.submit (n : Byte) (data : List Byte) : Length.Statement (.submit n data) := by
  intro h
  refine ⟨?_, .submit, by decide, rfl⟩
  simp only [Instr.WellFormed, beq_iff_eq] at h
  simp only [encode, List.length_cons, Instr.size, h]
  omega

theorem Length.guard : Length.Statement .guard := fun _ => ⟨rfl, .guard, by decide, rfl⟩

theorem Length.drain : Length.Statement .drain := fun _ => ⟨rfl, .drain, by decide, rfl⟩

theorem Length.shift : Length.Statement .shift := fun _ => ⟨rfl, .shift, by decide, rfl⟩

end Sys2Proof.Laws
end

