-- ==== Sys2Proof/Laws/Step.lean ====
section
/-! SUPPORT. What one step can do, and the induction over steps, packaged once. -/

namespace Sys2Proof.Machine

variable {s t : State}

/-- In scripted mode a running machine takes the host's step. -/
theorem step_of_scripted (hr : s.status = .running) (hm : s.mode = .scripted) : step s = hostStep s := by
  simp [step, machineStep, ifRunning, hr, hm]

theorem step_of_free (hr : s.status = .running) (hm : s.mode = .free) : step s = freeStep s := by
  simp [step, machineStep, ifRunning, hr, hm]

/-- In free mode a running machine takes the step of the agent the free choice picks, one turn later. -/
theorem step_of_enabled (hr : s.status = .running) (hm : s.mode = .free) {a : Agent} {as : List Agent}
    (h : enabledAgents Config.params s = a :: as) :
    step s = agentStep (pickAgent (Config.freeTurn s.turn) a as) s.nextTurn := by
  simp only [step_of_free hr hm, freeStep, scheduled, h]

/-- In free mode the run is over when no agent is enabled. -/
theorem step_of_quiescent (hr : s.status = .running) (hm : s.mode = .free) (h : enabledAgents Config.params s = []) :
    step s = .refused .runComplete := by
  simp only [step_of_free hr hm, freeStep, scheduled, h]

/-- In free mode the scheduled agent takes the step. -/
theorem step_of_scheduled (hr : s.status = .running) (hm : s.mode = .free) {a : Agent} (h : scheduled s = some a) :
    step s = agentStep a s.nextTurn := by
  simp only [step_of_free hr hm, freeStep, h]

/-- No agent is scheduled exactly when none is enabled. -/
theorem scheduled_eq_none : scheduled s = none ↔ enabledAgents Config.params s = [] := by
  unfold scheduled
  split <;> simp [*]

/-- What the host's step can do. -/
theorem hostStep_cases (h : hostStep s = .next t) :
    (∃ i rest, fetch s = .ok (i, rest) ∧
        ((¬(s.mode = .free ∧ i.isMarker = true) ∧ exec i s = .next t) ∨
          (s.mode = .free ∧ i.isMarker = true ∧ t = s.advance 1))) ∨
      (fetch s = .error .illegalCommand ∧ t = s.setStatus (.refused .illegalCommand)) ∨
      (fetch s = .error .truncatedCommand ∧ t = s.setStatus (.refused .truncatedCommand)) := by
  unfold hostStep at h
  split at h
  · rename_i r hf
    refine .inl ⟨r.1, r.2, hf, ?_⟩
    unfold hostCommand at h
    split at h
    · rename_i hm
      exact .inl ⟨by simp [hm], h⟩
    · rename_i hm
      split at h
      · exact .inr ⟨hm, by assumption, by simpa [eq_comm] using h⟩
      · rename_i hk
        exact .inl ⟨by simp [hk], h⟩
  · cases h
  · exact .inr (.inl ⟨by assumption, takeRefusal_next.1 h⟩)
  · exact .inr (.inr ⟨by assumption, takeRefusal_next.1 h⟩)

theorem pickAgent_mem (k : Nat) (a : Agent) (as : List Agent) : pickAgent k a as ∈ a :: as := by
  have hk : k % (as.length + 1) < (a :: as).length := Nat.mod_lt _ (Nat.succ_pos _)
  simp only [pickAgent, List.getD_eq_getElem?_getD, List.getElem?_eq_getElem hk, Option.getD_some]
  exact List.getElem_mem hk

/-- The scheduled agent is enabled. -/
theorem scheduled_enabled {a : Agent} (h : scheduled s = some a) : agentEnabled Config.params s a = true := by
  unfold scheduled at h
  split at h
  · cases h
  · rename_i b bs hl
    cases h
    have hm : pickAgent (Config.freeTurn s.turn) b bs ∈ enabledAgents Config.params s := by
      rw [hl]; exact pickAgent_mem _ _ _
    exact (List.mem_filter.1 hm).2

/-- What a step can do: the host's step in scripted mode, the step of an enabled agent in free mode. -/
theorem step_cases (h : step s = .next t) :
    s.status = .running ∧
      ((s.mode = .scripted ∧ hostStep s = .next t) ∨
        (s.mode = .free ∧ ∃ a, scheduled s = some a ∧ agentEnabled Config.params s a = true ∧
          agentStep a s.nextTurn = .next t)) := by
  obtain ⟨hr, h⟩ := ifRunning_next.1 h
  refine ⟨hr, ?_⟩
  split at h
  · exact .inl ⟨by assumption, h⟩
  · refine .inr ⟨by assumption, ?_⟩
    unfold freeStep at h
    split at h
    · cases h
    · rename_i a hl
      exact ⟨a, hl, scheduled_enabled hl, h⟩

/-- Every step is an operation, a marker passed over, or a decode refusal, on the state or on the state one turn later. -/
theorem step_source (h : step s = .next t) :
    ∃ r, (r = s ∨ r = s.nextTurn) ∧ r.status = .running ∧
      ((∃ i, exec i r = .next t) ∨ t = r.advance 1 ∨ ∃ c, t = r.setStatus (.refused c)) := by
  obtain ⟨hr, ⟨-, hh⟩ | ⟨-, a, -, -, ha⟩⟩ := step_cases h
  · refine ⟨s, .inl rfl, hr, ?_⟩
    rcases hostStep_cases hh with ⟨i, -, -, ⟨-, hi⟩ | ⟨-, -, hi⟩⟩ | ⟨-, hi⟩ | ⟨-, hi⟩
    · exact .inl ⟨i, hi⟩
    · exact .inr (.inl hi)
    · exact .inr (.inr ⟨_, hi⟩)
    · exact .inr (.inr ⟨_, hi⟩)
  · refine ⟨s.nextTurn, .inr rfl, hr, ?_⟩
    cases a with
    | host =>
      rcases hostStep_cases (ifRunning_next.1 ha).2 with ⟨i, -, -, ⟨-, hi⟩ | ⟨-, -, hi⟩⟩ | ⟨-, hi⟩ | ⟨-, hi⟩
      · exact .inl ⟨i, hi⟩
      · exact .inr (.inl hi)
      · exact .inr (.inr ⟨_, hi⟩)
      · exact .inr (.inr ⟨_, hi⟩)
    | drain => exact .inl ⟨.drain, ha⟩
    | shifter => exact .inl ⟨.shift, ha⟩

/-- What every operation keeps, and what neither `pc`, nor `status`, nor the turn counter can break, every step keeps. -/
theorem step_keeps {P : State → Prop} (hexec : ∀ {i s t}, P s → exec i s = .next t → P t)
    (hpc : ∀ {s n}, P s → P (s.advance n)) (hstatus : ∀ {s c}, P s → P (s.setStatus (.refused c)))
    (hturn : ∀ {s}, P s → P s.nextTurn) (hs : P s) (h : step s = .next t) : P t := by
  obtain ⟨r, hr, -, ⟨i, hi⟩ | rfl | ⟨c, rfl⟩⟩ := step_source h
  all_goals have hp : P r := by rcases hr with rfl | rfl; exacts [hs, hturn hs]
  · exact hexec hp hi
  · exact hpc hp
  · exact hstatus hp

end Sys2Proof.Machine
end

