-- ==== Sys2Proof/Laws/Safety.lean ====
section
/-! SUPPORT. The named states in terms of their two flags, and what the predicates of `Sys2Proof/Safety.lean` do not
depend on. -/

namespace Sys2Proof.Machine

variable {s t : State}

theorem stateName_idle : stateName s = .idle ↔ s.sending = false ∧ s.txIe = false := by
  cases h1 : s.sending <;> cases h2 : s.txIe <;> simp [stateName, h1, h2]

theorem stateName_armed : stateName s = .armed ↔ s.sending = true ∧ s.txIe = false := by
  cases h1 : s.sending <;> cases h2 : s.txIe <;> simp [stateName, h1, h2]

theorem stateName_draining : stateName s = .draining ↔ s.sending = true ∧ s.txIe = true := by
  cases h1 : s.sending <;> cases h2 : s.txIe <;> simp [stateName, h1, h2]

theorem stateName_spurious : stateName s = .spurious ↔ s.sending = false ∧ s.txIe = true := by
  cases h1 : s.sending <;> cases h2 : s.txIe <;> simp [stateName, h1, h2]

theorem stateName_congr (h1 : t.sending = s.sending) (h2 : t.txIe = s.txIe) : stateName t = stateName s := by
  simp [stateName, h1, h2]

@[simp] theorem packetCells_length (s : State) : (packetCells s).length = s.length.toNat := by simp [packetCells]

theorem packetCells_congr (h1 : t.buf = s.buf) (h2 : t.length = s.length) : packetCells t = packetCells s := by
  simp [packetCells, h1, h2]

/-- The packet cell a loading DRAIN reads. -/
theorem packetCells_get {a : Nat} (h : a < s.length.toNat) : (packetCells s)[a]? = some (s.buf.read a) := by
  simp [packetCells, List.getElem?_range h]

theorem loadedSince_congr {before : List Byte} (h1 : t.txLog = s.txLog) (h2 : t.cursor = s.cursor) (h3 : t.buf = s.buf)
    (h4 : t.length = s.length) : LoadedSince before t ↔ LoadedSince before s := by
  simp [LoadedSince, packetCells, h1, h2, h3, h4]

/-- What every step keeps, every number of steps keeps. -/
theorem stepsTo_keeps {P : State → Prop} (hstep : ∀ {u v}, P u → step u = .next v → P v) {n : Nat} (hs : P s)
    (h : StepsTo n s t) : P t := by
  induction n generalizing s with
  | zero => exact h ▸ hs
  | succ n ih =>
    obtain ⟨u, hu, ht⟩ := h
    exact ih (hstep hs hu) ht

@[simp] theorem freeWork_nextTurn (s : State) : freeWork s.nextTurn = freeWork s := rfl

end Sys2Proof.Machine
end

