-- ==== Sys2Proof/Tests/Slice0.lean ====
section
/-! SUPPORT. Tests with expected results from the spec's own vectors (`95_test_vectors.md`, named in each comment), and
for each statement with hypotheses a witness that meets them. -/

namespace Sys2Proof.Machine.Tests

open Sys2Proof Sys2Proof.Machine

/-! ### Small states -/

/-- One stage, bit 7 first: the parameters of most vectors of the spec. -/
def one : Params := { msbFirst := true, txSpare := 0, idleSer := true, idleClk := true }

/-- Two stages, bit 0 first. -/
def two : Params := { msbFirst := false, txSpare := 1, idleSer := false, idleClk := false }

/-- After CFGENC A from reset. -/
def configured : State :=
  { State.reset with encTruth := some 0x9, encLuten := true, encPeren := true, conv := some .A, pc := 2 }

/-- After vector T1: CFGENC A, TXINIT 50000. -/
def ready : State := { configured with bitRate := some 50000, txEn := true, pc := 7 }

/-- A packet of two payload bytes armed, its guard interval waited out. -/
def armed : State :=
  { ready with buf := [(1, 0x48), (2, 0x69)], length := 3, sending := true, ok := true, idleTicks := 41, pc := 12 }

/-- That packet being drained, its first byte next. -/
def draining : State := { armed with txIe := true, pc := 13 }

/-- That packet with all three bytes loaded and sent. -/
def drained : State := { draining with cursor := 3 }

/-- The interrupt enabled with nothing submitted. -/
def spurious : State := { ready with txIe := true }

/-- A byte in the transmitter. -/
def loaded : State := { ready with txq := [0xA3], txLog := [0xA3] }

/-- The next state, if there is one. -/
def after : Result → Option State
  | .next t => some t
  | .fault _ => none
  | .refused _ => none

/-! ### Well-formedness -/

/-- A payload of the wrong length is no command. -/
theorem test_illformed_submit_short : (Instr.submit 2 [0x48]).WellFormed = false := by decide

theorem test_illformed_submit_long : (Instr.submit 1 [0x48, 0x69]).WellFormed = false := by decide

theorem test_wellformed_others :
    [Instr.cfgenc 7, .txinit 0, .txien, .txidis, .loadb 255, .submit 2 [0x48, 0x69], .guard, .drain, .shift].all
      Instr.WellFormed = true := by decide

/-! ### Words -/

/-- CFGENC B, `01 01`. -/
theorem test_decode_cfgenc : decode [0x01, 0x01] = .ok (.cfgenc 1, []) := by rfl

/-- TXINIT 50000, least significant byte first: 50000 = 0xC350. -/
theorem test_decode_txinit : decode [0x02, 0x50, 0xC3, 0x00, 0x00] = .ok (.txinit 50000, []) := by rfl

/-- A rate whose four bytes all differ. -/
theorem test_decode_txinit_order : decode [0x02, 0x44, 0x33, 0x22, 0x11] = .ok (.txinit 0x11223344, []) := by rfl

theorem test_decode_txien : decode [0x03] = .ok (.txien, []) := by rfl

theorem test_decode_txidis : decode [0x04] = .ok (.txidis, []) := by rfl

theorem test_decode_loadb : decode [0x05, 0xA3, 0xE1] = .ok (.loadb 0xA3, [0xE1]) := by rfl

/-- Vector B1, followed by a GUARD. -/
theorem test_decode_submit : decode [0x06, 0x02, 0x48, 0x69, 0x07] = .ok (.submit 2 [0x48, 0x69], [0x07]) := by rfl

theorem test_decode_guard : decode [0x07] = .ok (.guard, []) := by rfl

theorem test_decode_drain : decode [0xE0] = .ok (.drain, []) := by rfl

theorem test_decode_shift : decode [0xE1] = .ok (.shift, []) := by rfl

/-- Vector F8: the bytes next to the opcodes. -/
theorem test_decode_illegal : [0x00, 0x08, 0x7F, 0xDF, 0xE2, 0xFF].all (fun b => (opcodeOf b).isNone) = true := by decide

/-- Vector F10. -/
theorem test_decode_truncated :
    decode [0x02, 0x50, 0xC3] = .error .truncatedCommand ∧ decode [0x06, 0x03, 0x41, 0x42] = .error .truncatedCommand ∧
    decode [0x01] = .error .truncatedCommand ∧ decode [0x05] = .error .truncatedCommand := ⟨rfl, rfl, rfl, rfl⟩

/-- The encoding of program P1's first five commands (`95_test_vectors.md` section 4). -/
theorem test_encode_P1 :
    encodeAll [.cfgenc 0, .txinit 50000, .submit 1 [0xA3], .guard, .txien]
      = [0x01, 0x00, 0x02, 0x50, 0xC3, 0x00, 0x00, 0x06, 0x01, 0xA3, 0x07, 0x03] := by decide

/-- A table word's bit 0 is the opcode's bit 0 and its second byte is bits 15..8. -/
theorem test_table_word_loadb : decodeTableWord 16 0xA305 = some (.loadb 0xA3) := by rfl

/-- A SUBMIT row of no payload bits: `n8` and all that follows is 0. -/
theorem test_table_word_submit : decodeTableWord 8 0x06 = some (.submit 0 []) := by rfl

/-- The placed word is the next instruction that runs. -/
theorem test_fetch_word : (after (step (State.reset.withFetchWord 16 0x0101))).map State.conv = some (some .B) := by decide

/-- `CFGENC A`, and program P1's SUBMIT, from text (R110). -/
theorem test_assembler_lines :
    parseLine ['C', 'F', 'G', 'E', 'N', 'C', ' ', 'A'] = some (.cfgenc .A) ∧
    parseLine ['S', 'U', 'B', 'M', 'I', 'T', ' ', '0', 'x', 'A', '3', ' ', ';', 'x'] = some (.submit [0xA3]) := by
  decide

/-- Program P1 by pseudo-operation XMIT (R111). -/
theorem test_assembler_xmit :
    assemble [.xmit [0xA3]] = [0x06, 0x01, 0xA3, 0x07, 0x03, 0xE0, 0xE1, 0xE0, 0xE1, 0xE0] := by decide

/-! ### The line encoder -/

/-- Vectors E1 to E8. -/
theorem test_lut :
    lut 0x9 false false = true ∧ lut 0x9 true false = false ∧ lut 0x9 false true = false ∧ lut 0x9 true true = true ∧
    lut 0x6 false false = false ∧ lut 0x6 true false = true ∧ lut 0x6 false true = true ∧ lut 0x6 true true = false := by
  decide

/-- Vector E16 (0xA3), conventions and bit orders apart: A/MSB 995A, A/LSB A566. -/
theorem test_frame_A3 :
    manchByte one 0x9 0xA3 = [true, false, false, true, true, false, false, true,
      false, true, false, true, true, false, true, false] ∧
    manchByte two 0x9 0xA3 = [true, false, true, false, false, true, false, true,
      false, true, true, false, false, true, true, false] := by decide

/-- Vector E27. -/
theorem test_cfgenc_B : after (exec (.cfgenc 1) State.reset) =
    some { State.reset with encTruth := some 0x6, encLuten := true, encPeren := true, conv := some .B, pc := 2 } := by decide

/-- Vector E28: a second CFGENC. -/
theorem test_cfgenc_twice : after (exec (.cfgenc 1) configured) =
    some { configured with status := .refused .reconfigure } := by decide

/-! ### The serial transmitter -/

/-- Vector T2: the minimum rate. -/
theorem test_txinit_minimum : after (exec (.txinit 16000) configured) =
    some { configured with bitRate := some 16000, txEn := true, pc := 7 } := by decide

/-- Vector T3: one below it. -/
theorem test_txinit_too_slow : after (exec (.txinit 15999) configured) =
    some { configured with status := .faulted .rateRange } := by decide

/-- Vector P1 at pc 11: 41 ticks are enough. -/
theorem test_txien_at_the_guard : after (exec .txien armed) = some { armed with txIe := true, pc := 13 } := by decide

/-- Vector F5, with 40 ticks. -/
theorem test_txien_too_early : after (exec .txien { armed with idleTicks := 40 }) =
    some { armed with idleTicks := 40, status := .faulted .guardViolation } := by decide

/-- Vector D9: a packet paused. -/
theorem test_txidis_pauses : after (exec .txidis draining) = some { draining with txIe := false, pc := 14 } := by decide

/-- Vector T8. -/
theorem test_txidis_before_init : after (exec .txidis configured) =
    some { configured with status := .refused .txNotInitialised } := by decide

/-- Vector T10: with one stage the second load is refused. -/
theorem test_loadb_full : after (loadbWith one 0xBB loaded) =
    some { loaded with status := .refused .txNotReady } := by decide

/-- Vector T11: with two stages it is accepted. -/
theorem test_loadb_two_stages : after (loadbWith two 0xBB loaded) =
    some { loaded with txq := [0xA3, 0xBB], txLog := [0xA3, 0xBB], pc := 9 } := by decide

/-- Vector T9: 0xA3 leaves as 995A (A, MSB first). -/
theorem test_shift_sends : after (shiftWith one loaded) =
    some { loaded with txq := [], pc := 8, line := [true, false, false, true, true, false, false, true,
      false, true, false, true, true, false, true, false] } := by decide

/-- Vector T12: nothing to shift. -/
theorem test_shift_empty : after (shiftWith one ready) =
    some { ready with status := .refused .eventNotEnabled } := by decide

/-! ### The transmit buffer -/

/-- Vector B1. -/
theorem test_submit_accepted : after (exec (.submit 2 [0x48, 0x69]) State.reset) =
    some { State.reset with buf := [(1, 0x48), (2, 0x69)], length := 3, sending := true, ok := true, pc := 4 } := by decide

/-- Vector B2: busy. -/
theorem test_submit_busy : after (exec (.submit 1 [0x00]) armed) = some { armed with ok := false, pc := 15 } := by decide

/-- Vector B8: old content stays above the new length. -/
theorem test_memory_keeps_old_cells :
    let m := Memory.writeFrom [(1, 0x41), (2, 0x42), (3, 0x43)] 1 [0x5A]
    [m.read 0, m.read 1, m.read 2, m.read 3, m.read 4] = [some 0x55, some 0x5A, some 0x42, some 0x43, none] := by decide

/-- Writing the reset value at offset 0 lists nothing. -/
theorem test_memory_canonical : Memory.write [(0, 0x54)] 0 0x55 = [] := by decide

/-! ### The transmission state machine -/

/-- Vector D1: row 1. -/
theorem test_drain_loads : after (drainWith one { draining with cursor := 1 }) =
    some { draining with cursor := 2, txq := [0x48], txLog := [0x48], pc := 14 } := by decide

/-- Vector D2: row 2. -/
theorem test_drain_completes : after (drainWith one drained) =
    some { drained with cursor := 0, txIe := false, sending := false, idleTicks := 0, pc := 14 } := by decide

/-! ### The packet scheduler -/

/-- Vector G14. -/
theorem test_guard_adds : after (exec .guard { ready with idleTicks := 41 }) =
    some { ready with idleTicks := 82, pc := 8 } := by decide

/-- Vectors G1, G2, G3, G4. -/
theorem test_guard_ticks :
    [guardTicks (some 16000), guardTicks (some 16001), guardTicks (some 19200), guardTicks (some 50000)]
      = [128, 128, 107, 41] := by decide

/-! ### Witnesses: states and operands that meet the hypotheses of the statements -/

/-- The ready machine in free mode, its stream used up. -/
def free : State := { ready with mode := .free }

/-- A draining packet in free mode: both a DRAIN and the host could be next. -/
def freeDraining : State := { draining with mode := .free }

/-- With an empty transmitter the interrupt is up, whatever its depth. -/
theorem irq_draining : irq Config.params draining = true := irq_eq_true.2 ⟨rfl, rfl, Params.txStages_pos _⟩

theorem irq_spurious : irq Config.params spurious = true := irq_eq_true.2 ⟨rfl, rfl, Params.txStages_pos _⟩

/-- As many bytes in the transmitter as it holds. -/
def full : State := { ready with txq := List.replicate Config.params.txStages 0xAA }

theorem inv_ready : StateInv ready :=
  ⟨Memory.wf_nil, rfl, by decide, fun _ => rfl, nofun, nofun, fun _ => rfl, nofun⟩

theorem inv_armed : StateInv armed :=
  ⟨by decide, rfl, by decide, nofun, fun _ => by decide, fun _ => by decide, fun _ => rfl, nofun⟩

theorem inv_draining : StateInv draining :=
  ⟨by decide, rfl, by decide, nofun, fun _ => by decide, fun _ => by decide, fun _ => rfl, fun _ _ => by decide⟩

theorem inv_spurious : StateInv spurious :=
  ⟨Memory.wf_nil, rfl, by decide, fun _ => rfl, nofun, nofun, fun _ => rfl, nofun⟩

/-- A step of the ready machine at a GUARD. -/
def atGuard : State := { ready with stream := [0x07], pc := 0 }

theorem step_atGuard : step atGuard = .next { atGuard with idleTicks := 41, pc := 1 } := by rfl

theorem inv_atGuard : StateInv atGuard :=
  ⟨Memory.wf_nil, rfl, by decide, fun _ => rfl, nofun, nofun, fun _ => rfl, nofun⟩

theorem config_atGuard : ConfigInv Config.params atGuard :=
  ⟨nofun, fun c h => by cases h; decide, fun _ => rfl, nofun, fun _ => ⟨50000, rfl, by decide⟩, Nat.zero_le _, nofun⟩

theorem line_atGuard : LineEncodesLog Config.params atGuard := ⟨[], rfl, rfl⟩

theorem witness_DecodeOfEncode :
    (Instr.submit 255 (List.replicate 255 0x41)).WellFormed = true ∧ (Instr.submit 0 []).WellFormed = true :=
  ⟨by decide +kernel, rfl⟩

theorem witness_DecodedBytesAreTheEncoding : decode [0x06, 0x01, 0xA3, 0x07] = .ok (.submit 1 [0xA3], [0x07]) := by rfl

/-- The bytes just outside the two runs of opcodes. -/
theorem witness_IllegalOpcodeIsRefused :
    ([0x00, 0x08, 0xDF, 0xE2] : List Byte).all (fun b =>
      !(decide (1 ≤ b.toNat ∧ b.toNat ≤ 7)) && b != 0xE0 && b != 0xE1) = true ∧
    ({ ready with stream := [0x08], pc := 0 } : State).stream.drop 0 = 0x08 :: [] ∧
    ready.status = .running ∧ ready.mode = .scripted := by decide

theorem witness_TruncatedCommandIsRefused :
    (Instr.submit 3 [0x41, 0x42, 0x43]).WellFormed = true ∧ 4 < (encode (.submit 3 [0x41, 0x42, 0x43])).length ∧
    ({ ready with stream := [0x06, 0x03, 0x41, 0x42], pc := 0 } : State).stream.drop 0
      = (encode (.submit 3 [0x41, 0x42, 0x43])).take 4 := by decide

theorem witness_PcAdvancesByTheLength :
    (∃ t, exec .guard ready = .next t ∧ t.status = .running ∧ ready.mode = .scripted) ∧
    (exec .drain free = .next free ∧ free.status = .running ∧ free.mode = .free ∧ Instr.drain.isMarker = true) ∧
    ∃ t, exec (.cfgenc 2) State.reset = .next t ∧ t.status ≠ .running :=
  ⟨⟨_, rfl, rfl, rfl⟩, ⟨rfl, rfl, rfl, rfl⟩, ⟨_, rfl, nofun⟩⟩

/-- Scripted; free at a host command; free at a marker; free with an agent enabled. -/
theorem witness_StepRunsTheDecodedCommand :
    decode (atGuard.stream.drop atGuard.pc) = .ok (.guard, []) ∧ atGuard.status = .running ∧ atGuard.mode = .scripted ∧
    (let s := { free with stream := [0xE0], pc := 0 };
      decode (s.stream.drop s.pc) = .ok (.drain, []) ∧ s.mode = .free ∧
      enabledAgents Config.params s = [.host]) := ⟨rfl, rfl, rfl, rfl, rfl, rfl⟩

theorem witness_AnyEnabledAgentMayStepNext : Agent.shifter ∈ [Agent.drain, .shifter] := by decide

/-- The end of the stream: scripted; free and quiescent; free with a byte still in the transmitter. -/
theorem witness_RunEndsWhenNoAgentIsEnabled :
    (let s := { ready with pc := 0 };
      s.status = .running ∧ s.pc = s.stream.length ∧ s.mode = .scripted) ∧
    (let s := { free with pc := 0 };
      s.pc = s.stream.length ∧ irq Config.params s = false ∧ shiftEnabled s = false) ∧
    (let s := { loaded with pc := 0, mode := .free };
      s.pc = s.stream.length ∧ shiftEnabled s = true) :=
  ⟨⟨rfl, rfl, rfl⟩, ⟨rfl, rfl, rfl⟩, ⟨rfl, rfl⟩⟩

/-- Scripted, and free with the host the only agent. -/
theorem witness_StreamIsImmutable :
    (∃ t, step atGuard = .next t ∧ atGuard.mode = .scripted) ∧
    ∃ t, step { atGuard with mode := .free } = .next t ∧ ({ atGuard with mode := .free } : State).mode = .free := by
  refine ⟨⟨_, step_atGuard, rfl⟩, ⟨{ atGuard with mode := .free, turn := 1, idleTicks := 41, pc := 1 }, ?_, rfl⟩⟩
  rw [step_of_enabled (a := .host) (as := []) rfl rfl rfl]
  simp only [pickAgent, List.length_nil, Nat.zero_add, Nat.mod_one]
  rfl

theorem witness_ScriptedStepIsAFreeStep :
    ready.mode = .scripted ∧ ∃ t, exec .guard ready = .next t ∧ t.status = .running := ⟨rfl, _, rfl, rfl⟩

theorem witness_FaultsAndRefusalsAreTerminal :
    (∃ t, exec .txien { armed with idleTicks := 40 } = .next t ∧ t.status = .faulted .guardViolation) ∧
    ∃ t, exec (.cfgenc 2) State.reset = .next t ∧ t.status = .refused .illegalOperand := ⟨⟨_, rfl, rfl⟩, ⟨_, rfl, rfl⟩⟩

/-- One witness a fault; `lengthInvariant` has none (R223: it cannot occur with an 8-bit `length`). -/
theorem witness_FaultsComeFromTheirCauses :
    (∃ t, exec (.txinit 15999) configured = .next t ∧ t.status = .faulted .rateRange) ∧
    (∃ t, exec .drain { draining with cursor := 4 } = .next t ∧ t.status = .faulted .cursorInvariant) ∧
    (∃ t, exec .drain { spurious with length := 1 } = .next t ∧ t.status = .faulted .staleDrain) ∧
    (∃ t, exec .txien { armed with idleTicks := 40 } = .next t ∧ t.status = .faulted .guardViolation) ∧
    (∃ t, exec .drain { draining with buf := [], cursor := 1 } = .next t ∧ t.status = .faulted .unwrittenRead) := by
  have h : ∀ s : State, s.txIe = true → s.txEn = true → s.txq = [] → s.status = .running →
      exec .drain s = drainEvent s := by
    intro s h1 h2 h3 h4
    have hi : irq Config.params s = true := irq_eq_true.2 ⟨h1, h2, by rw [h3]; exact Params.txStages_pos _⟩
    simp [exec, execDrain, drainWith, ifRunning, h4, hi]
  exact ⟨⟨_, rfl, rfl⟩, ⟨_, (h _ rfl rfl rfl rfl).trans rfl, rfl⟩, ⟨_, (h _ rfl rfl rfl rfl).trans rfl, rfl⟩,
    ⟨_, rfl, rfl⟩, ⟨_, (h _ rfl rfl rfl rfl).trans rfl, rfl⟩⟩

/-- One witness a refusal. -/
theorem witness_RefusalsComeFromTheirCauses :
    (∃ t, hostStep { ready with stream := [0x08], pc := 0 } = .next t ∧ t.status = .refused .illegalCommand) ∧
    (∃ t, hostStep { ready with stream := [0x05], pc := 0 } = .next t ∧ t.status = .refused .truncatedCommand) ∧
    (∃ t, exec (.cfgenc 2) State.reset = .next t ∧ t.status = .refused .illegalOperand) ∧
    (∃ t, exec .drain ready = .next t ∧ t.status = .refused .eventNotEnabled) ∧
    (∃ t, exec .shift ready = .next t ∧ t.status = .refused .eventNotEnabled) ∧
    (∃ t, exec (.cfgenc 1) configured = .next t ∧ t.status = .refused .reconfigure) ∧
    (∃ t, exec (.txinit 50000) ready = .next t ∧ t.status = .refused .reinit) ∧
    (∃ t, exec (.txinit 50000) State.reset = .next t ∧ t.status = .refused .initOrder) ∧
    (∃ t, exec .txien configured = .next t ∧ t.status = .refused .txNotInitialised) ∧
    (∃ t, exec (.loadb 1) armed = .next t ∧ t.status = .refused .loadWhileSending) ∧
    (∃ t, exec (.submit 0 []) spurious = .next t ∧ t.status = .refused .submitWhileEnabled) :=
  ⟨⟨_, rfl, rfl⟩, ⟨_, rfl, rfl⟩, ⟨_, rfl, rfl⟩, ⟨_, rfl, rfl⟩, ⟨_, rfl, rfl⟩, ⟨_, rfl, rfl⟩, ⟨_, rfl, rfl⟩, ⟨_, rfl, rfl⟩,
    ⟨_, rfl, rfl⟩, ⟨_, rfl, rfl⟩, ⟨_, rfl, rfl⟩⟩

/-- The two refusals left: a payload of 255 bytes, a load into a full transmitter. -/
theorem witness_RefusalsComeFromTheirCauses_more :
    (∃ t, exec (.submit 255 (List.replicate 255 0)) ready = .next t ∧ t.status = .refused .submitTooLong) ∧
    ∃ t, exec (.loadb 1) full = .next t ∧ t.status = .refused .txNotReady := by
  have h : dre Config.params full = false := by simp [dre, full]
  refine ⟨⟨ready.setStatus (.refused .submitTooLong), ?_, rfl⟩, ⟨full.setStatus (.refused .txNotReady), ?_, rfl⟩⟩
  · simp only [exec, execSubmit, List.length_replicate]
    rfl
  · simp only [exec, execLoadb, loadbWith, h]
    rfl

theorem witness_InvariantFaultsAreUnreachable : StateInv atGuard ∧ ∃ t, step atGuard = .next t :=
  ⟨inv_atGuard, _, step_atGuard⟩

theorem witness_TruthTablesAreXorAndXnor :
    encOn configured = true ∧ configured.encTruth = some 0x9 ∧ encOn State.reset = false := by decide

theorem witness_ByteFrame : one.msbFirst = true ∧ two.msbFirst = false := by decide

/-- Levels 1, 2, 3 of a frame span a cell boundary. -/
theorem witness_EveryBitCellHasATransition :
    (manchPacket one 0x9 [0x55])[1]? = some true ∧ (manchPacket one 0x9 [0x55])[2]? = some true ∧
    (manchPacket one 0x9 [0x55])[3]? = some false := by decide

theorem witness_CfgencOutcomes :
    State.reset.status = .running ∧ State.reset.conv = none ∧ configured.conv ≠ none ∧ (2 : Byte) ≠ 0 ∧ (2 : Byte) ≠ 1 := by
  decide

/-- Both sides of the least rate. -/
theorem witness_TxinitOutcomes :
    encOn State.reset = false ∧ (encOn ready = true ∧ ready.txEn = true) ∧
    (encOn configured = true ∧ configured.txEn = false ∧ configured.status = .running ∧
      (15999 : BitVec 32).toNat < 16000 ∧ 16000 ≤ (16000 : BitVec 32).toNat) := by decide

/-- Both sides of the guard length. -/
theorem witness_TxienOutcomes :
    configured.txEn = false ∧
    (armed.status = .running ∧ armed.txEn = true ∧ armed.sending = true ∧ 40 < guardTicks armed.bitRate ∧
      guardTicks armed.bitRate ≤ armed.idleTicks) ∧ ready.sending = false := by decide

theorem witness_TxidisOutcomes : configured.txEn = false ∧ draining.txEn = true ∧ draining.status = .running := by decide

theorem witness_LoadsHappenOnlyWhenReady :
    ready.txEn = true ∧ one.txStages = 1 ∧ two.txStages = 2 ∧ ready.txq = [] ∧ loaded.txq ≠ [] := by decide

/-- A load that happens. -/
theorem load_happens : ∃ t, exec (.loadb 0xA3) ready = .next t ∧ t.txLog ≠ ready.txLog := by
  have h : dre Config.params ready = true := dre_of_empty rfl rfl
  refine ⟨(ready.txLoad 0xA3).advance 2, ?_, by decide⟩
  simp only [exec, execLoadb, loadbWith, h]
  rfl

/-- Room for a byte, and none. -/
theorem witness_LoadbOutcomes :
    configured.txEn = false ∧ (armed.txEn = true ∧ armed.sending = true) ∧
    (full.status = .running ∧ full.txEn = true ∧ full.sending = false ∧ Config.params.txStages ≤ full.txq.length) ∧
    (ready.status = .running ∧ ready.txEn = true ∧ ready.sending = false ∧ ready.txq.length < Config.params.txStages) :=
  ⟨rfl, ⟨rfl, rfl⟩, ⟨rfl, rfl, rfl, by simp [full]⟩, ⟨rfl, rfl, rfl, Params.txStages_pos _⟩⟩

theorem witness_ShiftOutcomes :
    (ready.status = .running ∧ ready.txq = [] ∧ ready.mode = .scripted ∧ free.mode = .free) ∧
    (loaded.txEn = true ∧ loaded.txq = 0xA3 :: [] ∧ loaded.mode = .scripted ∧ loaded.encTruth = some 0x9) := by decide

theorem witness_StartUpLeavesTheMachineIdle : 16000 ≤ (16000 : BitVec 32).toNat := by decide

/-- Lengths 254 and 255, and the three states a SUBMIT can find. -/
theorem witness_SubmitOutcomes :
    (254 : Byte).toNat ≤ (List.replicate 254 (0 : Byte)).length ∧ (254 : Byte).toNat ≤ 254 ∧
    (255 : Byte).toNat ≤ (List.replicate 255 (0 : Byte)).length ∧ 254 < (255 : Byte).toNat ∧
    ([] : List Byte).length < (1 : Byte).toNat ∧
    armed.sending = true ∧ (spurious.sending = false ∧ spurious.txIe = true) ∧
    (ready.sending = false ∧ ready.txIe = false ∧ ready.status = .running) := by decide +kernel

theorem witness_BufferStaysCanonical : atGuard.buf.wf ∧ armed.buf.wf ∧ ∃ t, step atGuard = .next t :=
  ⟨by decide, by decide, _, step_atGuard⟩

/-- Every step's witness serves the statements about any step. -/
theorem witness_FramingByteIsNeverOverwritten : ∃ t, step atGuard = .next t := ⟨_, step_atGuard⟩

theorem witness_CanonicalBuffersWithEqualCellsAreEqual :
    Memory.wf [(1, 0x48), (254, 0xFD)] ∧ ∀ a < 255, Memory.read [(1, 0x48), (254, 0xFD)] a = Memory.read [(1, 0x48), (254, 0xFD)] a :=
  ⟨by decide, fun _ _ => rfl⟩

/-- The first row at the last cell, the second row, and the four ways to stop. -/
theorem witness_DrainOutcomes :
    (irq Config.params ready = false ∧ ready.mode = .scripted ∧ irq Config.params free = false ∧ free.mode = .free) ∧
    (draining.status = .running ∧ draining.txIe = true ∧ draining.txEn = true ∧
      draining.txq.length < Config.params.txStages) ∧
    (let s := { draining with cursor := 2 };
      s.cursor < s.length ∧ s.sending = true ∧ s.buf.read s.cursor.toNat = some 0x69) ∧
    drained.cursor = drained.length ∧
    (let s := { spurious with length := 1 };
      s.cursor < s.length ∧ s.sending = false) ∧
    (let s := { draining with buf := [], cursor := 1 };
      s.cursor < s.length ∧ s.sending = true ∧ s.buf.read s.cursor.toNat = none) ∧
    (let s := { draining with cursor := 4 };
      s.length < s.cursor) :=
  ⟨⟨rfl, rfl, rfl, rfl⟩, ⟨rfl, rfl, rfl, Params.txStages_pos _⟩, ⟨by decide, rfl, rfl⟩, rfl, ⟨by decide, rfl⟩,
    ⟨by decide, rfl, rfl⟩, by decide⟩

theorem witness_DrainAtTheEndIsIdempotent :
    (drained.status = .running ∧ irq Config.params drained = true ∧ drained.cursor = drained.length) ∧
    (spurious.status = .running ∧ irq Config.params spurious = true ∧ stateName spurious = .spurious ∧
      spurious.length = 0 ∧ spurious.cursor = 0) ∧
    ∃ t, exec .drain drained = .next t :=
  ⟨⟨rfl, irq_draining, rfl⟩, ⟨rfl, irq_spurious, rfl, rfl, rfl⟩, _, drain_completes rfl irq_draining rfl⟩

/-- The four named states, each with the invariant. -/
theorem witness_TransitionTable :
    (StateInv ready ∧ stateName ready = .idle ∧ ready.txEn = true) ∧
    (StateInv armed ∧ stateName armed = .armed ∧ guardTicks armed.bitRate ≤ armed.idleTicks) ∧
    (StateInv draining ∧ stateName draining = .draining ∧ irq Config.params draining = true ∧
      draining.cursor < draining.length) ∧
    (StateInv spurious ∧ stateName spurious = .spurious ∧ irq Config.params spurious = true ∧
      spurious.cursor = spurious.length) :=
  ⟨⟨inv_ready, rfl, rfl⟩, ⟨inv_armed, rfl, by decide⟩, ⟨inv_draining, rfl, irq_draining, by decide⟩,
    ⟨inv_spurious, rfl, irq_spurious, rfl⟩⟩

/-- The two clauses of the table left: Armed before the guard has passed, Spurious with a length left over. -/
theorem witness_TransitionTable_stops :
    (let s := { armed with idleTicks := 40 };
      stateName s = .armed ∧ s.idleTicks < guardTicks s.bitRate) ∧
    (let s := { spurious with length := 1 };
      stateName s = .spurious ∧ s.cursor < s.length) := by decide

/-- `sending` rises in a SUBMIT and falls in a completing DRAIN. -/
theorem witness_OnePacketInFlight :
    (∃ t, exec (.submit 0 []) ready = .next t ∧ ready.sending = false ∧ t.sending = true ∧ t.length ≠ ready.length) ∧
    ∃ t, exec .drain drained = .next t ∧ drained.sending = true ∧ t.sending = false :=
  ⟨⟨_, rfl, rfl, rfl, by decide⟩, ⟨_, drain_completes rfl irq_draining rfl, rfl, rfl⟩⟩

/-- A step that changes `txq`, `txLog` and `cursor`; one that changes `line`. -/
theorem witness_OwnershipTable :
    (∃ t, exec .drain draining = .next t ∧ t.cursor ≠ draining.cursor ∧ t.txq ≠ draining.txq) ∧
    ∃ t, exec .shift loaded = .next t ∧ t.line ≠ loaded.line :=
  ⟨⟨_, drain_loads rfl irq_draining (by decide) rfl rfl, by decide, by decide⟩,
    ⟨_, shift_sends rfl rfl rfl, by
      intro h
      have := congrArg List.length h
      simp [manchByte_length] at this⟩⟩

theorem witness_InvariantIsKept : StateInv atGuard ∧ ∃ t, step atGuard = .next t := ⟨inv_atGuard, _, step_atGuard⟩

theorem witness_ConfigurationInvariantIsKept : ConfigInv Config.params atGuard ∧ ∃ t, step atGuard = .next t :=
  ⟨config_atGuard, _, step_atGuard⟩

theorem witness_LineIsTheEncodingOfTheLog :
    ConfigInv Config.params atGuard ∧ LineEncodesLog Config.params atGuard ∧
    ∃ t, step atGuard = .next t ∧ t.txq = [] := ⟨config_atGuard, line_atGuard, _, step_atGuard, rfl⟩

/-- The two clauses: a SUBMIT accepted; a step with a packet in flight and nothing loaded yet. -/
theorem witness_BytesAreLoadedInOrderOnceEach :
    (StateInv ready ∧ ∃ t, exec (.submit 1 [0xA3]) ready = .next t ∧ t.status = .running ∧ t.ok = true) ∧
    (let s := { armed with stream := [0x07], pc := 0 };
      StateInv s ∧ s.sending = true ∧ LoadedSince [] s ∧ ∃ t, step s = .next t ∧ t.status = .running) :=
  ⟨⟨inv_ready, _, rfl, rfl, rfl⟩,
    ⟨⟨by decide, rfl, by decide, nofun, fun _ => by decide, fun _ => by decide, fun _ => rfl, nofun⟩, rfl, rfl, _, rfl, rfl⟩⟩

/-- The whole packet left, and nothing left. -/
theorem witness_DrainOfAPacketCompletes :
    (StateInv draining ∧ draining.status = .running ∧ stateName draining = .draining ∧ draining.txq = [] ∧
      (packetCells draining).drop draining.cursor.toNat = [0x55, 0x48, 0x69].map some) ∧
    (packetCells drained).drop drained.cursor.toNat = ([] : List Byte).map some :=
  ⟨⟨inv_draining, rfl, rfl, rfl, by decide⟩, by decide⟩

/-- Rounds enough for the packet: seven for the work left and one for the completion. -/
theorem witness_EveryFairScheduleDrains :
    StateInv freeDraining ∧ freeDraining.status = .running ∧ freeDraining.mode = .free ∧
    stateName freeDraining = .draining ∧ LoadedSince [] freeDraining ∧ LineEncodesLog Config.params freeDraining ∧
    (∀ r ∈ List.replicate 8 [Agent.shifter, .drain, .drain], Agent.drain ∈ r ∧ Agent.shifter ∈ r ∧ Agent.host ∉ r) ∧
    drainWork freeDraining < (List.replicate 8 [Agent.shifter, Agent.drain, .drain]).length :=
  ⟨⟨by decide, rfl, by decide, nofun, fun _ => by decide, fun _ => by decide, fun _ => rfl, fun _ _ => by decide⟩, rfl, rfl, rfl,
    rfl, ⟨[], rfl, rfl⟩, by decide, by decide⟩

/-- A host command before the events: the machine in free mode at a GUARD, a LOADB byte in the transmitter. -/
def freeLoaded : State := { loaded with stream := [0x07], pc := 0, mode := .free }

/-- Both clauses: a step that leaves the machine running, and a run. -/
theorem witness_EveryFreeRunEnds :
    (let s := { atGuard with mode := .free };
      s.mode = .free ∧ ∃ t, step s = .next t ∧ t.status = .running) ∧
    freeLoaded.mode = .free ∧ freeLoaded.status = .running := by
  refine ⟨⟨rfl, { atGuard with mode := .free, turn := 1, idleTicks := 41, pc := 1 }, ?_, rfl⟩, rfl, rfl⟩
  rw [step_of_enabled (a := .host) (as := []) rfl rfl rfl]
  simp only [pickAgent, List.length_nil, Nat.zero_add, Nat.mod_one]
  rfl

/-- DRAIN enabled, SHIFT enabled. -/
theorem witness_EnabledEventsHappen :
    (freeDraining.mode = .free ∧ freeDraining.status = .running ∧
      agentEnabled Config.params freeDraining .drain = true) ∧
    freeLoaded.mode = .free ∧ freeLoaded.status = .running ∧ shiftEnabled freeLoaded = true :=
  ⟨⟨rfl, rfl, irq_draining⟩, rfl, rfl, rfl⟩

/-- A host step while a byte is loaded. -/
theorem witness_EnabledEventsHappen_stays :
    freeLoaded.mode = .free ∧ shiftEnabled freeLoaded = true ∧ ∃ t, agentStep .host freeLoaded = .next t :=
  ⟨rfl, rfl, _, rfl⟩

theorem witness_EveryLoadedByteIsShifted :
    freeLoaded.mode = .free ∧ freeLoaded.status = .running ∧ ConfigInv Config.params freeLoaded ∧
    LineEncodesLog Config.params freeLoaded :=
  ⟨rfl, rfl, ⟨nofun, fun c h => by cases h; decide, fun _ => rfl, nofun, fun _ => ⟨50000, rfl, by decide⟩,
    Params.txStages_pos _, nofun⟩, ⟨[], rfl, rfl⟩⟩

theorem witness_DrainingMakesProgress :
    StateInv draining ∧ draining.status = .running ∧ stateName draining = .draining ∧
    agentEnabled Config.params draining .drain = true := ⟨inv_draining, rfl, rfl, irq_draining⟩

theorem witness_TracesOnlyGrow : ∃ t, step atGuard = .next t := ⟨_, step_atGuard⟩

theorem witness_ConfigurationIsWrittenOnce :
    atGuard.conv ≠ none ∧ atGuard.encLuten = true ∧ atGuard.encPeren = true ∧ atGuard.txEn = true ∧
    ∃ t, step atGuard = .next t := ⟨nofun, rfl, rfl, rfl, _, step_atGuard⟩

theorem witness_GuardOutcomes : configured.txEn = false ∧ ready.txEn = true ∧ ready.status = .running := by decide

/-- The rates where the clauses meet. -/
theorem witness_GuardLengthIsTheCeiling :
    (16000 : BitVec 32) ≠ 0 ∧ 16000 ≤ (16000 : BitVec 32).toNat ∧ 2048000 ≤ (2048000 : BitVec 32).toNat := by decide

theorem witness_GuardIntervalIsKept :
    (∃ t, exec .guard ready = .next t ∧ t.idleTicks ≠ ready.idleTicks) ∧
    ∃ t, exec .txien armed = .next t ∧ armed.txIe = false ∧ t.txIe = true ∧ armed.sending = true :=
  ⟨⟨_, rfl, by decide⟩, ⟨_, rfl, rfl, rfl, rfl⟩⟩

theorem witness_SchedulerAlwaysWaitsBeforeEnabling :
    (∃ t, exec (.submit 0 []) ready = .next t ∧ t.status = .running ∧ t.ok = true) ∧
    (∃ t, exec (.submit 0 []) armed = .next t ∧ t.status = .running ∧ t.ok = false) ∧
    armed.status = .running ∧ armed.txEn = true ∧ armed.sending = true :=
  ⟨⟨_, rfl, rfl, rfl⟩, ⟨_, rfl, rfl, rfl⟩, rfl, rfl, rfl⟩

theorem witness_ControlOperationsFrame : ∃ t, exec .guard ready = .next t := ⟨_, rfl⟩

theorem witness_LoadAndShiftFrame : (∃ t, exec .shift loaded = .next t) ∧ ∃ t, exec (.loadb 0xA3) ready = .next t :=
  ⟨⟨_, shift_sends rfl rfl rfl⟩, load_happens.imp fun _ h => h.1⟩

theorem witness_SubmitFrame :
    (∃ t, exec (.submit 1 [0xA3]) ready = .next t) ∧ (∃ t, exec (.submit 1 [0xA3]) armed = .next t ∧ armed.sending = true) :=
  ⟨⟨_, rfl⟩, ⟨_, rfl, rfl⟩⟩

theorem witness_DrainFrame :
    (∃ t, exec .drain draining = .next t ∧ draining.cursor ≠ draining.length) ∧
    ∃ t, exec .drain drained = .next t ∧ drained.cursor = drained.length :=
  ⟨⟨_, drain_loads rfl irq_draining (by decide) rfl rfl, by decide⟩, ⟨_, drain_completes rfl irq_draining rfl, rfl⟩⟩

end Sys2Proof.Machine.Tests
end

section
/-! The buffer under an operation, the framing byte (`10_state.md` R22) and the reset table (R51). -/

namespace Sys2Proof.Machine

@[simp] theorem Memory.resetByte_zero : Memory.resetByte 0 = some 0x55 := rfl

theorem Memory.resetByte_of_pos {a : Nat} (h : 1 ≤ a) : Memory.resetByte a = none := if_neg (by omega)

/-- The only operation that stores to the buffer is an accepted SUBMIT, and it stores its payload from offset 1 on. -/
theorem Effect.buf_cases {i : Instr} {s t : State} (h : Effect i s t) :
    t.buf = s.buf ∨ ∃ (n : Byte) (data : List Byte), i = .submit n data ∧ n.toNat ≤ data.length ∧ n.toNat ≤ 254 ∧
      s.sending = false ∧ t.buf = s.buf.writeFrom 1 (payloadBytes n data) := by
  cases h with
  | accepted hd hn hs _ => exact .inr ⟨_, _, rfl, hd, hn, hs, by simp⟩
  | _ => exact .inl (by simp)

theorem exec_keeps_framing_byte {i : Instr} {s t : State} (h : exec i s = .next t) : t.buf.read 0 = s.buf.read 0 := by
  obtain hb | ⟨n, data, -, hd, -, -, hb⟩ := (exec_effect h).buf_cases
  · rw [hb]
  · rw [hb, read_payload_outside hd (.inl rfl)]

theorem step_keeps_framing_byte {s t : State} (h : step s = .next t) : t.buf.read 0 = s.buf.read 0 :=
  step_keeps (P := fun u => u.buf.read 0 = s.buf.read 0) (fun hp he => (exec_keeps_framing_byte he).trans hp) id id id
    rfl h

theorem reset_buf_read_of_pos {a : Nat} (h : 1 ≤ a) : State.reset.buf.read a = none := Memory.resetByte_of_pos h

theorem stateName_reset : stateName State.reset = .idle := stateName_idle.2 ⟨rfl, rfl⟩

/-- Settles O31: an operation leaves the buffer alone or stores from offset 1 on, and what surrounds it in a step stores
nothing. -/
theorem framingByteIsNeverOverwritten : Obligations.FramingByteIsNeverOverwritten :=
  ⟨Memory.resetByte_zero, fun _ _ => step_keeps_framing_byte⟩

/-- Settles O56: the fields are those `State.reset` lists, the empty buffer reads as the reset contents, and a machine with
`sending` and `tx_ie` off is Idle. -/
theorem resetValues : Obligations.ResetValues :=
  ⟨Memory.resetByte_zero, fun _ h _ => reset_buf_read_of_pos h, rfl, rfl, rfl, rfl, rfl, rfl, rfl, rfl, rfl, rfl, rfl,
    rfl, rfl, rfl, rfl, rfl, rfl, stateName_reset⟩

end Sys2Proof.Machine
end

section
/-! A command cut short (`30_encoding.md` R106). -/

namespace Sys2Proof

/-- The opcode of a command (R98). -/
def Instr.opcode : Instr → Opcode
  | .cfgenc _ => .cfgenc
  | .txinit _ => .txinit
  | .txien => .txien
  | .txidis => .txidis
  | .loadb _ => .loadb
  | .submit _ _ => .submit
  | .guard => .guard
  | .drain => .drain
  | .shift => .shift

/-- The bytes of a command after its opcode byte (R99 to R104). -/
def Instr.operandBytes (i : Instr) : List Byte := (encode i).tail

theorem encode_eq_opcode_cons (i : Instr) : encode i = i.opcode.byte :: i.operandBytes := by
  cases i <;> rfl

theorem opcodeOf_byte (o : Opcode) : opcodeOf o.byte = some o := by
  cases o <;> rfl

/-- Once the opcode is read, operands that run past the end of the stream are the only failure (R106). -/
theorem decode_of_decodeOperands_none {o : Opcode} {bs : List Byte} (h : decodeOperands o bs = none) :
    decode (o.byte :: bs) = .error .truncatedCommand := by
  simp only [decode, opcodeOf_byte, h]

theorem decodeOperands_take_eq_none {i : Instr} {k : Nat} (hw : i.WellFormed = true) (hk : k < i.operandBytes.length) :
    decodeOperands i.opcode (i.operandBytes.take k) = none := by
  cases i with
  | cfgenc c | loadb b =>
    obtain rfl : k = 0 := Nat.lt_one_iff.1 hk
    rfl
  | txinit r =>
    have hk : k < 4 := hk
    interval_cases k <;> rfl
  | submit n data =>
    cases k with
    | zero => rfl
    | succ k =>
      have hlen : data.length = n.toNat := by simpa [Instr.WellFormed] using hw
      have hcut : k < data.length := Nat.lt_of_succ_lt_succ hk
      have hsplit : splitBytes n.toNat (data.take k) = none :=
        splitBytes_none.2 (by rw [List.length_take]; omega)
      simp [Instr.opcode, Instr.operandBytes, encode, decodeOperands, submitOperands, hsplit]
  | txien | txidis | guard | drain | shift => exact absurd hk (Nat.not_lt_zero k)

theorem decode_take_encode {i : Instr} {k : Nat} (hw : i.WellFormed = true) (h0 : 0 < k) (hk : k < (encode i).length) :
    decode ((encode i).take k) = .error .truncatedCommand := by
  obtain ⟨k, rfl⟩ := Nat.exists_eq_add_one.2 h0
  rw [encode_eq_opcode_cons] at hk ⊢
  exact decode_of_decodeOperands_none (decodeOperands_take_eq_none hw (Nat.lt_of_succ_lt_succ hk))

end Sys2Proof

namespace Sys2Proof.Machine

theorem agentStep_host {s : State} (hr : s.status = .running) : agentStep .host s = hostStep s :=
  ifRunning_of_running hr _

theorem hostStep_of_truncated {s : State} (h : fetch s = .error .truncatedCommand) :
    hostStep s = .next (s.setStatus (.refused .truncatedCommand)) := by
  simp only [hostStep, h, takeRefusal]

/-- Settles O5: the opcode byte of the beginning is read and its operands run out, and the host records the refusal. -/
theorem truncatedCommandIsRefused : Obligations.TruncatedCommandIsRefused := by
  intro i k hw h0 hk
  have hd := decode_take_encode hw h0 hk
  refine ⟨hd, fun s hr hs => ?_⟩
  have hstep := hostStep_of_truncated (s := s) (by rw [fetch, hs, hd])
  exact ⟨(agentStep_host hr).trans hstep, fun hm => (step_of_scripted hr hm).trans hstep⟩

end Sys2Proof.Machine
end

section
/-! The length rule (`30_encoding.md` R108). -/

namespace Sys2Proof

theorem encode_length {i : Instr} (hw : i.WellFormed = true) : (encode i).length = i.size := by
  have hlen : Laws.Length.Statement i := by
    cases i with
    | cfgenc c => exact Laws.Length.cfgenc c
    | txinit r => exact Laws.Length.txinit r
    | txien => exact Laws.Length.txien
    | txidis => exact Laws.Length.txidis
    | loadb b => exact Laws.Length.loadb b
    | submit n data => exact Laws.Length.submit n data
    | guard => exact Laws.Length.guard
    | drain => exact Laws.Length.drain
    | shift => exact Laws.Length.shift
  exact (hlen hw).1

end Sys2Proof

namespace Sys2Proof.Machine

/-- Where an operation leaves `pc`: unmoved if the machine stopped, past the command if it has a place in the stream,
unmoved if it is a marker in free mode. -/
theorem Effect.pc_cases {i : Instr} {s t : State} (h : Effect i s t) (hr : s.status = .running) :
    (t.status ≠ .running ∧ t.pc = s.pc) ∨
    (t.status = .running ∧ (s.mode = .scripted ∨ i.isMarker = false) ∧ t.pc = s.pc + i.size) ∨
    (t.status = .running ∧ s.mode = .free ∧ i.isMarker = true ∧ t.pc = s.pc) := by
  cases h with
  | stops hst => exact .inl ⟨hst, rfl⟩
  | nothing hm hi => exact .inr (.inr ⟨hr, hm, hi, rfl⟩)
  | load | complete | shift =>
    cases hm : s.mode with
    | scripted => exact .inr (.inl ⟨by simpa using hr, .inl rfl, by simp [hm, Instr.size]⟩)
    | free => exact .inr (.inr ⟨by simpa using hr, rfl, rfl, by simp [hm]⟩)
  | _ => exact .inr (.inl ⟨hr, .inr rfl, rfl⟩)

/-- Settles O6: the lengths are the table's, and the three ways an operation leaves `pc` are the three clauses. -/
theorem pcAdvancesByTheLength : Obligations.PcAdvancesByTheLength := by
  refine ⟨fun _ hw => encode_length hw, fun i s t hw h => ?_⟩
  rw [encode_length hw]
  obtain ⟨hst, hpc⟩ | ⟨hst, hplace, hpc⟩ | ⟨hst, hm, hi, hpc⟩ := (exec_effect h).pc_cases (exec_running h)
  · exact ⟨fun hrun => absurd hrun hst, fun hrun => absurd hrun hst, fun _ => hpc⟩
  · refine ⟨fun _ _ => hpc, fun _ hm hi => ?_, fun hstop => absurd hst hstop⟩
    simp [hm, hi] at hplace
  · refine ⟨fun _ hplace => ?_, fun _ _ _ => hpc, fun hstop => absurd hst hstop⟩
    simp [hm, hi] at hplace

end Sys2Proof.Machine
end

section
/-! The bit cell and the byte frame (`40_line_encoder.md` R123, R124). -/

namespace Sys2Proof.Machine

/-- The clock is high in the first half of a bit cell and low in the second. -/
theorem manchBit_eq_lut (t : BitVec 4) (d : Level) : manchBit t d = [lut t d true, lut t d false] := rfl

/-- Table 0x9 (XNOR) sends a bit and then its complement. -/
theorem manchBit_xnor (d : Level) : manchBit 0x9 d = [d, !d] := by
  cases d <;> rfl

/-- Table 0x6 (XOR) sends the complement of a bit and then the bit. -/
theorem manchBit_xor (d : Level) : manchBit 0x6 d = [!d, d] := by
  cases d <;> rfl

/-- Settles O18: the halves are the table's outputs, the bit and its complement for 0x9, the other way round for 0x6. -/
theorem bitCellHalves : Obligations.BitCellHalves :=
  ⟨manchBit_eq_lut, manchBit_xnor false, manchBit_xnor true, manchBit_xor false, manchBit_xor true⟩

theorem wireBits_of_msbFirst {p : Params} (h : p.msbFirst = true) (b : Byte) :
    wireBits p b = [7, 6, 5, 4, 3, 2, 1, 0].map b.getLsbD := by
  rw [wireBits, h]
  rfl

theorem wireBits_of_lsbFirst {p : Params} (h : p.msbFirst = false) (b : Byte) :
    wireBits p b = [0, 1, 2, 3, 4, 5, 6, 7].map b.getLsbD := by
  rw [wireBits, h]
  rfl

/-- A byte whose bits go out in the order of `idx` has the frame of the bit cells in that order. -/
theorem manchByte_of_wireBits {p : Params} {b : Byte} {idx : List Nat} (h : wireBits p b = idx.map b.getLsbD)
    (t : BitVec 4) : manchByte p t b = idx.flatMap fun i => manchBit t (b.getLsbD i) := by
  rw [manchByte, h, List.flatMap_map]

/-- Settles O19: both wire orders give the frame's cells, and in the frames of 0x55 each cell is the table's. -/
theorem byteFrame : Obligations.ByteFrame := by
  refine ⟨fun p t b => ⟨fun h => ?_, fun h => ?_, manchByte_length p t b⟩, fun p h => ⟨?_, ?_⟩⟩
  · exact manchByte_of_wireBits (wireBits_of_msbFirst h b) t
  · exact manchByte_of_wireBits (wireBits_of_lsbFirst h b) t
  · simp only [manchByte_of_wireBits (wireBits_of_msbFirst h _), manchBit_xnor]
    rfl
  · simp only [manchByte_of_wireBits (wireBits_of_msbFirst h _), manchBit_xor]
    rfl

end Sys2Proof.Machine
end

section
/-! The load primitive (`41_serial_transmitter.md` R144). -/

namespace Sys2Proof.Machine

/-- Byte-ready after a load: a second place is free in the transmitter. -/
theorem dre_txLoad {p : Params} {s : State} (hx : s.txEn = true) (b : Byte) :
    dre p (s.txLoad b) = true ↔ s.txq.length + 1 < p.txStages := by
  simp [dre_eq_true, hx]

/-- Not byte-ready after a load: it took the last place. -/
theorem dre_txLoad_eq_false {p : Params} {s : State} (hx : s.txEn = true) (b : Byte) :
    dre p (s.txLoad b) = false ↔ p.txStages ≤ s.txq.length + 1 := by
  rw [← Bool.not_eq_true, dre_txLoad hx, Nat.not_lt]

/-- A byte shifted out after a load that had room gives that room back. -/
theorem dre_shiftOut_txLoad {p : Params} {s : State} {b c : Byte} {q : List Byte} (hx : s.txEn = true)
    (hroom : s.txq.length < p.txStages) (hq : (s.txLoad b).txq = c :: q) (levels : List Level) :
    dre p ((s.txLoad b).shiftOut levels q) = true := by
  have hlen : s.txq.length = q.length := by simpa using congrArg List.length hq
  exact dre_eq_true.2 ⟨hx, hlen ▸ hroom⟩

/-- The only operations that write `tx_log` are LOADB and DRAIN's load, each of which found the transmitter ready and gave
it one byte. -/
theorem Effect.txLog_cases {i : Instr} {s t : State} (h : Effect i s t) :
    t.txLog = s.txLog ∨ (s.txEn = true ∧ s.txq.length < Config.params.txStages ∧
      ∃ b, t.txq = s.txq ++ [b] ∧ t.txLog = s.txLog ++ [b]) := by
  cases h with
  | loadb hx _ hq => exact .inr ⟨hx, hq, _, rfl, rfl⟩
  | @load _ b _ hx hq => exact .inr ⟨hx, hq, b, by simp, by simp⟩
  | _ => exact .inl (by simp)

/-- Settles O26: `dre` after a load compares the places with the bytes then queued, and of the two effects that write
`tx_log` each has the ready transmitter among its conditions. -/
theorem loadsHappenOnlyWhenReady : Obligations.LoadsHappenOnlyWhenReady := by
  refine ⟨fun _ _ => rfl, fun p s b hx => ⟨dre_txLoad hx b, fun hp => ?_, fun hp hq => ?_, fun hp hq => ?_, ?_⟩,
    fun i s t h hlog => (exec_effect h).txLog_cases.resolve_left hlog⟩
  · exact (dre_txLoad_eq_false hx b).2 (by omega)
  · exact (dre_txLoad hx b).2 (by simp [hp, hq])
  · have hpos := List.length_pos_of_ne_nil hq
    exact (dre_txLoad_eq_false hx b).2 (by omega)
  · exact fun hroom levels _ _ hq => dre_shiftOut_txLoad hx hroom hq levels

end Sys2Proof.Machine
end

section
/-! DRAIN with nothing left to load (`43_drain_state_machine.md` R194). -/

namespace Sys2Proof.Machine

variable {s t : State}

theorem stateName_completePacket_passMarker (s : State) : stateName s.completePacket.passMarker = .idle :=
  stateName_idle.2 ⟨by simp, by simp⟩

/-- DRAIN's first row is not taken with `cursor ≥ length`: nothing is loaded and the cursor does not advance. -/
theorem Effect.drain_at_end (h : Effect .drain s t) (hc : s.length ≤ s.cursor) :
    t.txLog = s.txLog ∧ t.cursor ≤ s.cursor := by
  cases h with
  | stops | nothing => exact ⟨rfl, BitVec.le_refl _⟩
  | load _ _ _ hlt => exact absurd hlt (BitVec.not_lt.2 hc)
  | complete => exact ⟨by simp, by simp [byte_le]⟩

theorem Effect.drain_keeps_cursor_le_length (h : Effect .drain s t) (hc : s.cursor ≤ s.length) :
    t.cursor ≤ t.length := by
  cases h with
  | stops | nothing => exact hc
  | load _ _ _ hlt =>
    have hle : s.cursor + 1#8 ≤ s.length := by
      rw [byte_le, cursor_succ hlt]
      exact byte_lt.1 hlt
    simpa using hle
  | complete => simp [byte_le]

/-- Settles O35: with `cursor = length` DRAIN completes, whatever `sending` is, Spurious with length 0 being such a state;
and a load, the one effect that advances the cursor, needs `cursor < length`. -/
theorem drainAtTheEndIsIdempotent : Obligations.DrainAtTheEndIsIdempotent := by
  refine ⟨fun s hr hq hc => ?_, fun s hr hq _ hl hc => ?_, fun s t h => ?_⟩
  · exact ⟨_, drain_completes hr hq hc, by simpa using hr, stateName_completePacket_passMarker s, by simp⟩
  · exact ⟨_, drain_completes hr hq (hc.trans hl.symm), by simpa using hr, stateName_completePacket_passMarker s, by simp⟩
  · exact ⟨(exec_effect h).drain_at_end, (exec_effect h).drain_keeps_cursor_le_length⟩

end Sys2Proof.Machine
end

section
/-! The guard length (`44_packet_scheduler.md` R205). -/

namespace Sys2Proof.Machine

variable {r : BitVec 32}

/-- R10's `cdiv` is the library's ceiling division, which is adjoint to multiplication. -/
theorem guardTicks_eq_ceilDiv (h : r ≠ 0#32) : guardTicks (some r) = 2048000 ⌈/⌉ r.toNat :=
  (guardTicks_of_rate h).trans (Nat.ceilDiv_eq_add_pred_div _ _).symm

/-- `n` ticks reach the guard length exactly when `n` times the rate reaches `GUARD_K`. -/
theorem guardTicks_le_iff (h : r ≠ 0#32) {n : Nat} : guardTicks (some r) ≤ n ↔ 2048000 ≤ n * r.toNat := by
  have hpos : 0 < r.toNat := by bv_omega
  rw [guardTicks_eq_ceilDiv h, ceilDiv_le_iff_le_mul hpos, Nat.mul_comm]

/-- Fewer ticks than the guard length fall short of `GUARD_K`. -/
theorem lt_guardTicks_iff (h : r ≠ 0#32) {n : Nat} : n < guardTicks (some r) ↔ n * r.toNat < 2048000 := by
  simpa using not_congr (guardTicks_le_iff h (n := n))

/-- Settles O53: the two comparisons at the guard length itself and one tick below it, and at 0, 1 and 128 ticks. -/
theorem guardLengthIsTheCeiling : Obligations.GuardLengthIsTheCeiling := by
  refine ⟨fun r h => ?_, by decide⟩
  have hpos : 1 ≤ guardTicks (some r) := (lt_guardTicks_iff h).2 (by omega)
  refine ⟨(guardTicks_le_iff h).1 le_rfl, (lt_guardTicks_iff h).1 (Nat.sub_one_lt_of_lt hpos), hpos, fun hr => ?_,
    fun hr => ?_, Nat.mul_comm _ _⟩
  · exact (guardTicks_le_iff h).2 (by omega)
  · exact le_antisymm ((guardTicks_le_iff h).2 (by omega)) hpos

end Sys2Proof.Machine
end

section
/-! The fault list and the refusal list (`60_exceptions.md` R223, R224). -/

namespace Sys2Proof.Machine

/-- The codes an operation can record in `status`, each with the operations that raise it and its cause (R223, R224). -/
inductive Stops (s : State) : Instr → Status → Prop where
  | rateRange {r : BitVec 32} (hr : r.toNat < Config.minBitRate) : Stops s (.txinit r) (.faulted .rateRange)
  | cursorInvariant (hc : s.length < s.cursor) : Stops s .drain (.faulted .cursorInvariant)
  | staleDrain (hc : s.cursor < s.length) (hs : s.sending = false) : Stops s .drain (.faulted .staleDrain)
  | guardViolation (hs : s.sending = true) (hg : s.idleTicks < guardTicks s.bitRate) :
      Stops s .txien (.faulted .guardViolation)
  | unwrittenRead (hb : s.buf.read s.cursor.toNat = none) : Stops s .drain (.faulted .unwrittenRead)
  | illegalOperand {b : Byte} (hb : conventionOf b = none) : Stops s (.cfgenc b) (.refused .illegalOperand)
  | drainNotEnabled (hm : s.mode = .scripted) (hq : irq Config.params s = false) :
      Stops s .drain (.refused .eventNotEnabled)
  | shiftNotEnabled (hm : s.mode = .scripted) (he : shiftEnabled s = false) :
      Stops s .shift (.refused .eventNotEnabled)
  | reconfigure {b : Byte} (hc : s.conv ≠ none) : Stops s (.cfgenc b) (.refused .reconfigure)
  | reinit {r : BitVec 32} (hx : s.txEn = true) : Stops s (.txinit r) (.refused .reinit)
  | initOrder {r : BitVec 32} (he : encOn s = false) : Stops s (.txinit r) (.refused .initOrder)
  | txNotInitialised {i : Instr} (hi : i = .txien ∨ i = .txidis ∨ (∃ b, i = .loadb b) ∨ i = .guard)
      (hx : s.txEn = false) : Stops s i (.refused .txNotInitialised)
  | txNotReady {b : Byte} (hd : dre Config.params s = false) : Stops s (.loadb b) (.refused .txNotReady)
  | loadWhileSending {b : Byte} (hs : s.sending = true) : Stops s (.loadb b) (.refused .loadWhileSending)
  | submitTooLong {n : Byte} {data : List Byte} (hn : Config.maxPayload < n.toNat) :
      Stops s (.submit n data) (.refused .submitTooLong)
  | submitWhileEnabled {n : Byte} {data : List Byte} (hs : s.sending = false) (hi : s.txIe = true) :
      Stops s (.submit n data) (.refused .submitWhileEnabled)

variable {i : Instr} {s t : State}

/-- An operation leaves the machine running, or does no more than record a code whose cause holds (R221, R222). -/
theorem exec_running_or_stops (h : exec i s = .next t) :
    t.status = .running ∨ ∃ st, Stops s i st ∧ t = s.setStatus st := by
  have hr := exec_running h
  cases i with
  | cfgenc b =>
    obtain ⟨hb, rfl⟩ | ⟨c, -, ⟨hc, rfl⟩ | ⟨-, rfl⟩⟩ := (execCfgenc_cases h).2
    exacts [.inr ⟨_, .illegalOperand hb, rfl⟩, .inr ⟨_, .reconfigure hc, rfl⟩, .inl hr]
  | txinit r =>
    obtain ⟨he, rfl⟩ | ⟨-, hx, rfl⟩ | ⟨-, -, hrate, rfl⟩ | ⟨-, -, -, rfl⟩ := (execTxinit_cases h).2
    exacts [.inr ⟨_, .initOrder he, rfl⟩, .inr ⟨_, .reinit hx, rfl⟩, .inr ⟨_, .rateRange hrate, rfl⟩, .inl hr]
  | txien =>
    obtain ⟨hx, rfl⟩ | ⟨-, hs, hg, rfl⟩ | ⟨-, -, rfl⟩ := (execTxien_cases h).2
    exacts [.inr ⟨_, .txNotInitialised (.inl rfl) hx, rfl⟩, .inr ⟨_, .guardViolation hs hg, rfl⟩, .inl hr]
  | txidis =>
    obtain ⟨hx, rfl⟩ | ⟨-, rfl⟩ := (execTxidis_cases h).2
    exacts [.inr ⟨_, .txNotInitialised (.inr (.inl rfl)) hx, rfl⟩, .inl hr]
  | loadb b =>
    obtain ⟨hx, rfl⟩ | ⟨-, hs, rfl⟩ | ⟨-, -, hd, rfl⟩ | ⟨-, -, -, rfl⟩ := (loadbWith_cases h).2
    exacts [.inr ⟨_, .txNotInitialised (.inr (.inr (.inl ⟨b, rfl⟩))) hx, rfl⟩, .inr ⟨_, .loadWhileSending hs, rfl⟩,
      .inr ⟨_, .txNotReady hd, rfl⟩, .inl hr]
  | submit n data =>
    obtain ⟨-, -, ⟨hn, rfl⟩ | ⟨-, -, rfl⟩ | ⟨-, hs, hi, rfl⟩ | ⟨-, -, -, rfl⟩⟩ := execSubmit_cases h
    exacts [.inr ⟨_, .submitTooLong hn, rfl⟩, .inl hr, .inr ⟨_, .submitWhileEnabled hs hi, rfl⟩, .inl hr]
  | guard =>
    obtain ⟨hx, rfl⟩ | ⟨-, rfl⟩ := (execGuard_cases h).2
    exacts [.inr ⟨_, .txNotInitialised (.inr (.inr (.inr rfl))) hx, rfl⟩, .inl hr]
  | drain =>
    obtain ⟨hq, ⟨hm, rfl⟩ | ⟨-, rfl⟩⟩ | ⟨-, hd⟩ := (drainWith_cases h).2
    · exact .inr ⟨_, .drainNotEnabled hm hq, rfl⟩
    · exact .inl hr
    · obtain ⟨hc, ⟨hs, rfl⟩ | ⟨-, hb, rfl⟩ | ⟨-, b, -, rfl⟩⟩ | ⟨-, rfl⟩ | ⟨hc, rfl⟩ := drainEvent_cases hd
      exacts [.inr ⟨_, .staleDrain hc hs, rfl⟩, .inr ⟨_, .unwrittenRead hb, rfl⟩, .inl (by simpa using hr),
        .inl (by simpa using hr), .inr ⟨_, .cursorInvariant hc, rfl⟩]
  | shift =>
    obtain ⟨he, ⟨hm, rfl⟩ | ⟨-, rfl⟩⟩ | ⟨b, rest, -, -, rfl⟩ := (shiftWith_cases h).2
    exacts [.inr ⟨_, .shiftNotEnabled hm he, rfl⟩, .inl hr, .inl (by simpa using hr)]

/-- An operation that leaves a code in `status` has that code's cause, and left everything else as it was. -/
theorem exec_stops {st : Status} (h : exec i s = .next t) (ht : t.status = st) (hst : st ≠ .running) :
    Stops s i st ∧ t = s.setStatus st := by
  subst ht
  obtain hrun | ⟨st, hstop, rfl⟩ := exec_running_or_stops h
  · exact absurd hrun hst
  · exact ⟨hstop, rfl⟩

/-- Settles O14: the causes are those of the faults in the list of what an operation can record. -/
theorem faultsComeFromTheirCauses : Obligations.FaultsComeFromTheirCauses := by
  refine ⟨rfl, fun i s t c h hcode => ?_⟩
  obtain ⟨hstop, ht⟩ := exec_stops h hcode nofun
  refine ⟨ht, ?_⟩
  cases hstop with
  | rateRange hr => exact ⟨_, rfl, hr⟩
  | cursorInvariant hc => exact ⟨rfl, hc⟩
  | staleDrain hc hs => exact ⟨rfl, hc, hs⟩
  | guardViolation hs hg => exact ⟨rfl, hs, hg⟩
  | unwrittenRead hb => exact ⟨rfl, hb⟩

end Sys2Proof.Machine

namespace Sys2Proof

variable {bs : List Byte}

/-- What a decode that fails before the end of the stream has read: an opcode byte outside the map (R105), or one of the
map with too few bytes after it (R106). -/
theorem decode_error_cases {e : DecodeError} (h : decode bs = .error e) (he : e ≠ .endOfStream) :
    (e = .illegalCommand ∧ ∃ b rest, bs = b :: rest ∧ opcodeOf b = none) ∨
      (e = .truncatedCommand ∧ ∃ b o rest, bs = b :: rest ∧ opcodeOf b = some o ∧ decodeOperands o rest = none) := by
  cases bs with
  | nil =>
    cases h
    exact absurd rfl he
  | cons b rest =>
    simp only [decode] at h
    split at h
    · rename_i hb
      cases h
      exact .inl ⟨rfl, b, rest, rfl, hb⟩
    · rename_i o hb
      split at h
      · rename_i hops
        cases h
        exact .inr ⟨rfl, b, o, rest, rfl, hb, hops⟩
      · cases h

end Sys2Proof

namespace Sys2Proof.Machine

variable {s t : State}

/-- A refusal the host's step records is a decode failure's or the operation's own. -/
theorem hostStep_refused {c : RefusalCode} (h : hostStep s = .next t) (hr : s.status = .running)
    (hc : t.status = .refused c) :
    (c = .illegalCommand ∧ fetch s = .error .illegalCommand) ∨
      (c = .truncatedCommand ∧ fetch s = .error .truncatedCommand) ∨ ∃ i, Stops s i (.refused c) := by
  obtain ⟨i, -, -, ⟨-, he⟩ | ⟨-, -, rfl⟩⟩ | ⟨hf, rfl⟩ | ⟨hf, rfl⟩ := hostStep_cases h
  · exact .inr (.inr ⟨i, (exec_stops he hc nofun).1⟩)
  · exact absurd (hr.symm.trans hc) nofun
  · cases hc
    exact .inl ⟨rfl, hf⟩
  · cases hc
    exact .inr (.inl ⟨rfl, hf⟩)

theorem hostStep_illegalCommand (h : hostStep s = .next t) (hr : s.status = .running)
    (hc : t.status = .refused .illegalCommand) :
    ∃ b rest, s.stream.drop s.pc = b :: rest ∧ opcodeOf b = none := by
  obtain ⟨-, hf⟩ | ⟨hne, -⟩ | ⟨i, hstop⟩ := hostStep_refused h hr hc
  · simpa using decode_error_cases hf nofun
  · cases hne
  · cases hstop

theorem hostStep_truncatedCommand (h : hostStep s = .next t) (hr : s.status = .running)
    (hc : t.status = .refused .truncatedCommand) :
    ∃ b o rest, s.stream.drop s.pc = b :: rest ∧ opcodeOf b = some o ∧ decodeOperands o rest = none := by
  obtain ⟨hne, -⟩ | ⟨-, hf⟩ | ⟨i, hstop⟩ := hostStep_refused h hr hc
  · cases hne
  · simpa using decode_error_cases hf nofun
  · cases hstop

/-- Settles O15: a decode refusal is a decode failure, no operation recording one, and the other causes are those of the
refusals in the list of what an operation can record. -/
theorem refusalsComeFromTheirCauses : Obligations.RefusalsComeFromTheirCauses := by
  refine ⟨rfl, fun s t h => ⟨fun hc hr => hostStep_illegalCommand h hr hc, fun hc hr => hostStep_truncatedCommand h hr hc⟩,
    fun i s t c h hcode => ?_⟩
  obtain ⟨hstop, ht⟩ := exec_stops h hcode nofun
  refine ⟨ht, ?_⟩
  cases hstop with
  | illegalOperand hb => exact ⟨_, rfl, conventionOf_eq_none.1 hb⟩
  | drainNotEnabled hm hq => exact ⟨hm, .inl ⟨rfl, hq⟩⟩
  | shiftNotEnabled hm he => exact ⟨hm, .inr ⟨rfl, he⟩⟩
  | reconfigure hc => exact ⟨⟨_, rfl⟩, hc⟩
  | reinit hx => exact ⟨⟨_, rfl⟩, hx⟩
  | initOrder he => exact ⟨⟨_, rfl⟩, he⟩
  | txNotInitialised hi hx => exact ⟨hi, hx⟩
  | txNotReady hd => exact ⟨⟨_, rfl⟩, hd⟩
  | loadWhileSending hs => exact ⟨⟨_, rfl⟩, hs⟩
  | submitTooLong hn => exact ⟨_, _, rfl, hn⟩
  | submitWhileEnabled hs hi => exact ⟨⟨_, _, rfl⟩, hs, hi⟩

end Sys2Proof.Machine
end

section
/-! Encoder and decoder are inverse to each other (`30_encoding.md` R97 to R106). -/

namespace Sys2Proof

/-- The four bytes of a rate make the rate again (R100). -/
theorem rateOfBytes_rateByte (r : BitVec 32) :
    rateOfBytes (rateByte r 1) (rateByte r 256) (rateByte r 65536) (rateByte r 16777216) = r := by
  apply BitVec.eq_of_toNat_eq
  simp only [rateOfBytes, rateByte, BitVec.toNat_ofNat]
  omega

theorem rateByte_rateOfBytes (b1 b2 b3 b4 : Byte) :
    rateByte (rateOfBytes b1 b2 b3 b4) 1 = b1 ∧ rateByte (rateOfBytes b1 b2 b3 b4) 256 = b2 ∧
      rateByte (rateOfBytes b1 b2 b3 b4) 65536 = b3 ∧ rateByte (rateOfBytes b1 b2 b3 b4) 16777216 = b4 := by
  refine ⟨?_, ?_, ?_, ?_⟩ <;>
  · apply BitVec.eq_of_toNat_eq
    simp only [rateOfBytes, rateByte, BitVec.toNat_ofNat]
    omega

/-- A command of the map is decoded from its opcode and operands. -/
theorem decode_of_decodeOperands_some {o : Opcode} {bs : List Byte} {r : Instr × List Byte}
    (h : decodeOperands o bs = some r) : decode (o.byte :: bs) = .ok r := by
  simp only [decode, opcodeOf_byte, h]

theorem decodeOperands_operandBytes {i : Instr} (hw : i.WellFormed = true) (rest : List Byte) :
    decodeOperands i.opcode (i.operandBytes ++ rest) = some (i, rest) := by
  cases i with
  | txinit r =>
    exact congrArg (fun rate => some (Instr.txinit rate, rest)) (rateOfBytes_rateByte r)
  | submit n data =>
    have hlen : data.length = n.toNat := by simpa [Instr.WellFormed] using hw
    have hsplit : splitBytes n.toNat (data ++ rest) = some (data, rest) := hlen ▸ splitBytes_append data rest
    simp [Instr.opcode, Instr.operandBytes, encode, decodeOperands, submitOperands, hsplit]
  | cfgenc | txien | txidis | loadb | guard | drain | shift => rfl

theorem decode_encode {i : Instr} (hw : i.WellFormed = true) (rest : List Byte) :
    decode (encode i ++ rest) = .ok (i, rest) := by
  rw [encode_eq_opcode_cons]
  exact decode_of_decodeOperands_some (decodeOperands_operandBytes hw rest)

/-- Settles O2: the opcode is looked up again, the payload is split off at its length, and a rate is made of its
bytes. -/
theorem decodeOfEncode : Obligations.DecodeOfEncode := fun _ rest hw => decode_encode hw rest

/-- Settles O1: each word is the encoding of its command, with the bytes after it. -/
theorem wordsOfEachRowDecode : Obligations.WordsOfEachRowDecode :=
  ⟨decode_encode (i := .cfgenc 0x00) rfl [], decode_encode (i := .txinit 50000) rfl [0x03],
    decode_encode (i := .txinit 16000) rfl [], decode_encode (i := .txien) rfl [0x04],
    decode_encode (i := .txidis) rfl [], decode_encode (i := .loadb 0xA3) rfl [0xE1],
    decode_encode (i := .submit 2 [0x48, 0x69]) rfl [0x07],
    decode_encode (i := .guard) rfl [], decode_encode (i := .drain) rfl [0xE1], decode_encode (i := .shift) rfl []⟩

variable {b : Byte} {bs rest : List Byte} {i : Instr}

theorem byte_of_opcodeOf_some {o : Opcode} (h : opcodeOf b = some o) : b = o.byte := by
  unfold opcodeOf at h
  have hbyte := List.find?_some h
  exact (beq_iff_eq.1 hbyte).symm

theorem submitOperands_some {n : Byte} (h : submitOperands n bs = some (i, rest)) :
    ∃ data, i = .submit n data ∧ data.length = n.toNat ∧ bs = data ++ rest := by
  unfold submitOperands at h
  split at h
  · cases h
  · rename_i r hr
    cases h
    obtain ⟨hlen, hbs⟩ := splitBytes_some hr
    exact ⟨r.1, rfl, hlen, hbs⟩

theorem decodeOperands_some {o : Opcode} (h : decodeOperands o bs = some (i, rest)) :
    i.WellFormed = true ∧ o.byte :: bs = encode i ++ rest := by
  unfold decodeOperands at h
  split at h
  case h_3 b1 b2 b3 b4 _ =>
    cases h
    obtain ⟨h1, h2, h3, h4⟩ := rateByte_rateOfBytes b1 b2 b3 b4
    exact ⟨rfl, by simp [encode, h1, h2, h3, h4]⟩
  case h_9 n _ =>
    obtain ⟨data, rfl, hlen, rfl⟩ := submitOperands_some h
    exact ⟨by simp [Instr.WellFormed, hlen], rfl⟩
  all_goals cases h
  all_goals exact ⟨rfl, rfl⟩

/-- Settles O3: the byte an opcode is looked up from is that opcode's, the payload split off has the length `n8`
gives, and the bytes of the rate are those it was made of. -/
theorem decodedBytesAreTheEncoding : Obligations.DecodedBytesAreTheEncoding := by
  intro bs rest i h
  unfold decode at h
  split at h
  · cases h
  · split at h
    · cases h
    · rename_i o ho
      split at h
      · cases h
      · rename_i hops
        cases h
        rw [byte_of_opcodeOf_some ho]
        exact decodeOperands_some hops

/-- The opcode map has no row for a byte outside 0x01..0x07, 0xE0, 0xE1 (R98, R105). -/
theorem opcodeOf_eq_none (h : ¬(1 ≤ b.toNat ∧ b.toNat ≤ 7)) (h0 : b ≠ 0xE0) (h1 : b ≠ 0xE1) : opcodeOf b = none := by
  rw [Option.eq_none_iff_forall_ne_some]
  intro o ho
  have hb := byte_of_opcodeOf_some ho
  subst hb
  cases o with
  | drain => exact h0 rfl
  | shift => exact h1 rfl
  | cfgenc | txinit | txien | txidis | loadb | submit | guard => exact h (by decide)

theorem decode_of_opcodeOf_none (h : opcodeOf b = none) : decode (b :: bs) = .error .illegalCommand := by
  simp only [decode, h]

end Sys2Proof

namespace Sys2Proof.Machine

theorem hostStep_of_illegal {s : State} (h : fetch s = .error .illegalCommand) :
    hostStep s = .next (s.setStatus (.refused .illegalCommand)) := by
  simp only [hostStep, h, takeRefusal]

/-- Settles O4: the byte is in no row of the map, so the decode fails at once and the host records the refusal. -/
theorem illegalOpcodeIsRefused : Obligations.IllegalOpcodeIsRefused := by
  intro b rest h h0 h1
  have hd : decode (b :: rest) = .error .illegalCommand := decode_of_opcodeOf_none (opcodeOf_eq_none h h0 h1)
  refine ⟨hd, fun s hr hs => ?_⟩
  have hstep := hostStep_of_illegal (s := s) (by rw [fetch, hs, hd])
  exact ⟨(agentStep_host hr).trans hstep, fun hm => (step_of_scripted hr hm).trans hstep⟩

end Sys2Proof.Machine
end

section
/-! The agents, the step, and the end of a run (`20_memory.md` R73, `30_encoding.md` R97, R104, R109,
`60_exceptions.md` R221, R222). -/

namespace Sys2Proof.Machine

variable {s t : State} {i : Instr} {a : Agent} {p : Params}

/-! ### The host's command -/

theorem hostStep_of_fetch {rest : List Byte} (h : fetch s = .ok (i, rest)) : hostStep s = hostCommand i s := by
  simp only [hostStep, h]

theorem hostCommand_of_scripted (hm : s.mode = .scripted) : hostCommand i s = exec i s := by
  simp only [hostCommand, hm]

/-- In free mode the host runs its operations as in scripted mode. -/
theorem hostCommand_of_operation (hm : s.mode = .free) (hi : i.isMarker = false) : hostCommand i s = exec i s := by
  simp [hostCommand, hm, hi]

/-- In free mode the host passes over a marker. -/
theorem hostCommand_of_marker (hm : s.mode = .free) (hi : i.isMarker = true) :
    hostCommand i s = .next (s.advance 1) := by
  simp [hostCommand, hm, hi]

/-- Settles O7: the host runs the command `fetch` reads, or passes it over as a marker in free mode, and of the
enabled agents the one picked takes the step. -/
theorem stepRunsTheDecodedCommand : Obligations.StepRunsTheDecodedCommand := by
  refine fun s hr => ⟨fun i rest hd => ?_, rfl, rfl, fun hm _ _ => step_of_enabled hr hm⟩
  have hhost : agentStep .host s = hostCommand i s := (agentStep_host hr).trans (hostStep_of_fetch hd)
  refine ⟨fun hm => ?_, fun hm hi => hhost.trans (hostCommand_of_operation hm hi),
    fun hm hi => hhost.trans (hostCommand_of_marker hm hi)⟩
  have hexec := hhost.trans (hostCommand_of_scripted hm)
  exact ⟨(step_of_scripted hr hm).trans ((agentStep_host hr).symm.trans hexec), hexec⟩

/-! ### The enabled agents -/

theorem shiftEnabled_eq_true : shiftEnabled s = true ↔ s.txEn = true ∧ s.txq ≠ [] := by
  simp [shiftEnabled]

theorem mem_enabledAgents : a ∈ enabledAgents p s ↔ agentEnabled p s a = true := by
  cases a <;> simp [enabledAgents]

theorem quiescent_iff : Quiescent p s ↔ ∀ a, agentEnabled p s a = false := by
  simp [Quiescent, List.eq_nil_iff_forall_not_mem, mem_enabledAgents]

/-- Every member of a list is picked by some choice number. -/
theorem exists_pickAgent {b : Agent} {as : List Agent} (h : b ∈ a :: as) : ∃ k, pickAgent k a as = b := by
  obtain ⟨k, hk, rfl⟩ := List.mem_iff_getElem.1 h
  have hmod : k % (as.length + 1) = k := Nat.mod_eq_of_lt hk
  exact ⟨k, by rw [pickAgent, hmod, List.getD_eq_getElem _ _ hk]⟩

/-- Settles O8: the listing is filtered by the enabling conditions, and an index into a list reaches its members
alone. -/
theorem anyEnabledAgentMayStepNext : Obligations.AnyEnabledAgentMayStepNext := by
  refine ⟨fun p s a => ?_, fun a b as => ⟨exists_pickAgent, ?_⟩⟩
  · rw [mem_enabledAgents]
    cases a with
    | host => simp [agentEnabled]
    | drain => simp [agentEnabled, irq_eq_true, and_left_comm]
    | shifter => simp [agentEnabled, shiftEnabled_eq_true]
  · rintro ⟨k, rfl⟩
    exact pickAgent_mem k a as

/-! ### The end of a run -/

theorem hostStep_of_end (h : s.pc = s.stream.length) : hostStep s = .refused .runComplete := by
  simp [hostStep, fetch, h, decode]

/-- At the end of the stream the run is quiescent when neither event is enabled. -/
theorem quiescent_iff_of_end (h : s.pc = s.stream.length) :
    Quiescent p s ↔ irq p s = false ∧ shiftEnabled s = false := by
  rw [quiescent_iff]
  refine ⟨fun hall => ⟨hall .drain, hall .shifter⟩, fun ⟨hd, hs⟩ a => ?_⟩
  cases a with
  | host => simp [agentEnabled, h]
  | drain => exact hd
  | shifter => exact hs

/-- With an agent enabled, some enabled agent is scheduled. -/
theorem exists_scheduled (h : agentEnabled Config.params s a = true) :
    ∃ b, scheduled s = some b ∧ agentEnabled Config.params s b = true := by
  have hne : scheduled s ≠ none := fun hn => by
    simpa [scheduled_eq_none.1 hn] using mem_enabledAgents.2 h
  obtain ⟨b, hb⟩ := Option.ne_none_iff_exists'.1 hne
  exact ⟨b, hb, scheduled_enabled hb⟩

/-- Settles O9: at the end of the stream the host has no step, so the agent scheduled is DRAIN's or the shifter's. -/
theorem runEndsWhenNoAgentIsEnabled : Obligations.RunEndsWhenNoAgentIsEnabled := by
  intro s hr hpc
  have hend := hostStep_of_end hpc
  refine ⟨(agentStep_host hr).trans hend, fun hm => (step_of_scripted hr hm).trans hend, quiescent_iff_of_end hpc,
    fun hm hd hs => step_of_quiescent hr hm ((quiescent_iff_of_end hpc).2 ⟨hd, hs⟩), fun hm he => ?_⟩
  have hsome : ∃ a, agentEnabled Config.params s a = true := by
    obtain hd | hs := he
    exacts [⟨.drain, hd⟩, ⟨.shifter, hs⟩]
  obtain ⟨_, ha⟩ := hsome
  obtain ⟨b, hsched, hb⟩ := exists_scheduled ha
  refine ⟨b, ?_, hb, step_of_scheduled hr hm hsched⟩
  rintro rfl
  simp [agentEnabled, hpc] at hb

/-! ### What a step keeps -/

theorem agentStep_running (h : agentStep a s = .next t) : s.status = .running := by
  cases a with
  | host => exact (ifRunning_next.1 h).1
  | drain => exact exec_running (i := .drain) h
  | shifter => exact exec_running (i := .shift) h

/-- An agent's step is an operation, a marker passed over, or a decode refusal. -/
theorem agentStep_source {P : State → Prop} (hexec : ∀ i, exec i s = .next t → P t) (hpc : P (s.advance 1))
    (hstatus : ∀ c, P (s.setStatus (.refused c))) (h : agentStep a s = .next t) : P t := by
  cases a with
  | drain => exact hexec .drain h
  | shifter => exact hexec .shift h
  | host =>
    obtain ⟨i, -, -, ⟨-, he⟩ | ⟨-, -, rfl⟩⟩ | ⟨-, rfl⟩ | ⟨-, rfl⟩ := hostStep_cases (ifRunning_next.1 h).2
    exacts [hexec i he, hpc, hstatus _, hstatus _]

/-- A step is the host's in scripted mode, and the scheduled agent's in free mode. -/
theorem step_agent (h : step s = .next t) :
    s.status = .running ∧
      ((s.mode = .scripted ∧ agentStep .host s = .next t) ∨
        (s.mode = .free ∧ ∃ a, scheduled s = some a ∧ agentStep a s.nextTurn = .next t)) := by
  obtain ⟨hr, ⟨hm, hh⟩ | ⟨hm, a, ha, -, hs⟩⟩ := step_cases h
  · exact ⟨hr, .inl ⟨hm, (agentStep_host hr).trans hh⟩⟩
  · exact ⟨hr, .inr ⟨hm, a, ha, hs⟩⟩

theorem Effect.keeps_program (h : Effect i s t) : t.stream = s.stream ∧ t.mode = s.mode ∧ t.turn = s.turn := by
  cases h with
  | _ => simp

theorem agentStep_keeps_program (h : agentStep a s = .next t) :
    t.stream = s.stream ∧ t.mode = s.mode ∧ t.turn = s.turn :=
  agentStep_source (P := fun u => u.stream = s.stream ∧ u.mode = s.mode ∧ u.turn = s.turn)
    (fun _ he => (exec_effect he).keeps_program) ⟨rfl, rfl, rfl⟩ (fun _ => ⟨rfl, rfl, rfl⟩) h

/-- Settles O10: no agent's step writes the stream, the mode or the turn counter, and only a free step gives out a
turn. -/
theorem streamIsImmutable : Obligations.StreamIsImmutable := by
  intro s t h
  obtain ⟨-, ⟨hm, ha⟩ | ⟨hm, a, -, ha⟩⟩ := step_agent h
  · obtain ⟨hstream, hmode, hturn⟩ := agentStep_keeps_program ha
    exact ⟨hstream, hmode, fun _ => hturn, fun hf => absurd (hm.symm.trans hf) nofun⟩
  · obtain ⟨hstream, hmode, hturn⟩ := agentStep_keeps_program ha
    exact ⟨hstream, hmode, fun hc => absurd (hm.symm.trans hc) nofun, fun _ => hturn⟩

/-! ### A stopped machine -/

/-- An agent's step that stops the machine does no more than record a code. -/
theorem agentStep_stops (h : agentStep a s = .next t) (ht : t.status ≠ .running) : ∃ st, t = s.setStatus st := by
  have hr := agentStep_running h
  exact agentStep_source (P := fun u => u.status ≠ .running → ∃ st, u = s.setStatus st)
    (fun _ he hst => ⟨_, (exec_stops he rfl hst).2⟩) (fun hst => absurd hr hst) (fun _ _ => ⟨_, rfl⟩) h ht

/-- Every operation, agent and step begins with the requirement that the machine runs. -/
theorem exec_eq_ifRunning (i : Instr) (s : State) : ∃ k, exec i s = ifRunning s k := by
  cases i <;> exact ⟨_, rfl⟩

theorem agentStep_eq_ifRunning (a : Agent) (s : State) : ∃ k, agentStep a s = ifRunning s k := by
  cases a with
  | host => exact ⟨_, rfl⟩
  | drain => exact exec_eq_ifRunning .drain s
  | shifter => exact exec_eq_ifRunning .shift s

theorem step_eq_ifRunning (s : State) : ∃ k, step s = ifRunning s k := ⟨_, rfl⟩

theorem eq_fault_of_eq_ifRunning {c : Fault} {r : Result} (h : s.status = .faulted c) (hr : ∃ k, r = ifRunning s k) :
    r = .fault c := by
  obtain ⟨k, rfl⟩ := hr
  exact ifRunning_of_faulted h k

theorem eq_recorded_of_eq_ifRunning {c : RefusalCode} {r : Result} (h : s.status = .refused c)
    (hr : ∃ k, r = ifRunning s k) : r = .refused (.recorded c) := by
  obtain ⟨k, rfl⟩ := hr
  exact ifRunning_of_refused h k

/-- Settles O13: whatever stops the machine records a code and nothing more, and `ifRunning`, which every operation,
agent and step begins with, then answers that code. -/
theorem faultsAndRefusalsAreTerminal : Obligations.FaultsAndRefusalsAreTerminal := by
  refine ⟨rfl, fun s t h => (step_cases h).1, fun i s t h => ⟨exec_running h, fun hst => (exec_stops h rfl hst).2⟩,
    fun s t h hst => ?_, fun t c hc => ?_, fun t c hc => ?_⟩
  · obtain ⟨-, ⟨-, ha⟩ | ⟨-, a, -, ha⟩⟩ := step_agent h <;>
    · obtain ⟨st, rfl⟩ := agentStep_stops ha hst
      rfl
  · refine ⟨eq_fault_of_eq_ifRunning hc (step_eq_ifRunning t),
      fun a => eq_fault_of_eq_ifRunning hc (agentStep_eq_ifRunning a t),
      fun i => eq_fault_of_eq_ifRunning hc (exec_eq_ifRunning i t), fun hclean => ?_⟩
    exact absurd (hc.symm.trans hclean.1) nofun
  · refine ⟨eq_recorded_of_eq_ifRunning hc (step_eq_ifRunning t),
      fun a => eq_recorded_of_eq_ifRunning hc (agentStep_eq_ifRunning a t),
      fun i => eq_recorded_of_eq_ifRunning hc (exec_eq_ifRunning i t), fun hclean => ?_⟩
    exact absurd (hc.symm.trans hclean.1) nofun

end Sys2Proof.Machine
end

section
/-! What each operation of a running machine answers, check by check in the order of `60_exceptions.md` R231. -/

namespace Sys2Proof.Machine

variable {s : State} {b n : Byte} {r : BitVec 32} {c : Convention} {data : List Byte}

section Answers

variable (hr : s.status = .running)
include hr

/-! ### CFGENC (R121) -/

theorem cfgenc_illegal_operand (hb : conventionOf b = none) :
    exec (.cfgenc b) s = .next (s.setStatus (.refused .illegalOperand)) := by
  simp [exec, execCfgenc, ifRunning_of_running hr, hb, takeRefusal]

theorem cfgenc_reconfigure (hb : conventionOf b = some c) (hc : s.conv ≠ none) :
    exec (.cfgenc b) s = .next (s.setStatus (.refused .reconfigure)) := by
  simp [exec, execCfgenc, ifRunning_of_running hr, hb, hc, takeRefusal]

theorem cfgenc_configures (hb : conventionOf b = some c) (hc : s.conv = none) :
    exec (.cfgenc b) s = .next ((s.configure c (conventionTruth c)).advance 2) := by
  simp [exec, execCfgenc, ifRunning_of_running hr, hb, hc]

/-! ### TXINIT (R140) -/

theorem txinit_init_order (he : encOn s = false) :
    exec (.txinit r) s = .next (s.setStatus (.refused .initOrder)) := by
  simp [exec, execTxinit, ifRunning_of_running hr, he, takeRefusal]

theorem txinit_reinit (he : encOn s = true) (hx : s.txEn = true) :
    exec (.txinit r) s = .next (s.setStatus (.refused .reinit)) := by
  simp [exec, execTxinit, ifRunning_of_running hr, he, hx, takeRefusal]

theorem txinit_rate_range (he : encOn s = true) (hx : s.txEn = false) (hrate : r.toNat < Config.minBitRate) :
    exec (.txinit r) s = .next (s.setStatus (.faulted .rateRange)) := by
  simp [exec, execTxinit, ifRunning_of_running hr, he, hx, hrate, takeFault]

theorem txinit_initialises (he : encOn s = true) (hx : s.txEn = false) (hrate : Config.minBitRate ≤ r.toNat) :
    exec (.txinit r) s = .next ((s.initialise r).advance 5) := by
  simp [exec, execTxinit, ifRunning_of_running hr, he, hx, Nat.not_lt.2 hrate]

/-! ### TXIEN, TXIDIS (R141, R142) and GUARD (R206) -/

theorem txien_not_initialised (hx : s.txEn = false) :
    exec .txien s = .next (s.setStatus (.refused .txNotInitialised)) := by
  simp [exec, execTxien, ifRunning_of_running hr, hx, takeRefusal]

theorem txien_guard_violation (hx : s.txEn = true) (hs : s.sending = true) (hg : s.idleTicks < guardTicks s.bitRate) :
    exec .txien s = .next (s.setStatus (.faulted .guardViolation)) := by
  simp [exec, execTxien, ifRunning_of_running hr, hx, hs, hg, takeFault]

theorem txien_enables (hx : s.txEn = true) (hg : s.sending = true → guardTicks s.bitRate ≤ s.idleTicks) :
    exec .txien s = .next ((s.setTxIe true).advance 1) := by
  have hwaited : ¬(s.sending = true ∧ s.idleTicks < guardTicks s.bitRate) := fun h => Nat.not_lt.2 (hg h.1) h.2
  simp [exec, execTxien, ifRunning_of_running hr, hx, hwaited]

theorem txidis_not_initialised (hx : s.txEn = false) :
    exec .txidis s = .next (s.setStatus (.refused .txNotInitialised)) := by
  simp [exec, execTxidis, ifRunning_of_running hr, hx, takeRefusal]

theorem txidis_disables (hx : s.txEn = true) : exec .txidis s = .next ((s.setTxIe false).advance 1) := by
  simp [exec, execTxidis, ifRunning_of_running hr, hx]

theorem guard_not_initialised (hx : s.txEn = false) :
    exec .guard s = .next (s.setStatus (.refused .txNotInitialised)) := by
  simp [exec, execGuard, ifRunning_of_running hr, hx, takeRefusal]

theorem guard_waits (hx : s.txEn = true) : exec .guard s = .next ((s.addIdle (guardTicks s.bitRate)).advance 1) := by
  simp [exec, execGuard, ifRunning_of_running hr, hx]

/-! ### LOADB (R143) -/

theorem loadb_not_initialised (hx : s.txEn = false) :
    exec (.loadb b) s = .next (s.setStatus (.refused .txNotInitialised)) := by
  simp [exec, execLoadb, loadbWith, ifRunning_of_running hr, hx, takeRefusal]

theorem loadb_while_sending (hx : s.txEn = true) (hs : s.sending = true) :
    exec (.loadb b) s = .next (s.setStatus (.refused .loadWhileSending)) := by
  simp [exec, execLoadb, loadbWith, ifRunning_of_running hr, hx, hs, takeRefusal]

theorem loadb_not_ready (hx : s.txEn = true) (hs : s.sending = false) (hq : Config.params.txStages ≤ s.txq.length) :
    exec (.loadb b) s = .next (s.setStatus (.refused .txNotReady)) := by
  simp [exec, execLoadb, loadbWith, ifRunning_of_running hr, hx, hs, dre, Nat.not_lt.2 hq, takeRefusal]

theorem loadb_loads (hx : s.txEn = true) (hs : s.sending = false) (hq : s.txq.length < Config.params.txStages) :
    exec (.loadb b) s = .next ((s.txLoad b).advance 2) := by
  simp [exec, execLoadb, loadbWith, ifRunning_of_running hr, hx, hs, dre, hq]

/-! ### SUBMIT (R170) -/

theorem submit_short_payload (hd : data.length < n.toNat) : exec (.submit n data) s = .refused .shortPayload := by
  simp [exec, execSubmit, ifRunning_of_running hr, hd]

theorem submit_too_long (hd : n.toNat ≤ data.length) (hn : 254 < n.toNat) :
    exec (.submit n data) s = .next (s.setStatus (.refused .submitTooLong)) := by
  simp [exec, execSubmit, ifRunning_of_running hr, Nat.not_lt.2 hd, Config.maxPayload, hn, takeRefusal]

theorem submit_busy (hd : n.toNat ≤ data.length) (hn : n.toNat ≤ 254) (hs : s.sending = true) :
    exec (.submit n data) s = .next ((s.setOk false).advance (2 + n.toNat)) := by
  simp [exec, execSubmit, ifRunning_of_running hr, Nat.not_lt.2 hd, Config.maxPayload, Nat.not_lt.2 hn, hs]

theorem submit_while_enabled (hd : n.toNat ≤ data.length) (hn : n.toNat ≤ 254) (hs : s.sending = false)
    (hi : s.txIe = true) : exec (.submit n data) s = .next (s.setStatus (.refused .submitWhileEnabled)) := by
  simp [exec, execSubmit, ifRunning_of_running hr, Nat.not_lt.2 hd, Config.maxPayload, Nat.not_lt.2 hn, hs, hi,
    takeRefusal]

theorem submit_accepted (hd : n.toNat ≤ data.length) (hn : n.toNat ≤ 254) (hs : s.sending = false)
    (hi : s.txIe = false) : exec (.submit n data) s =
      .next (((s.storePacket n (payloadBytes n data)).setOk true).advance (2 + n.toNat)) := by
  simp [exec, execSubmit, ifRunning_of_running hr, Nat.not_lt.2 hd, Config.maxPayload, Nat.not_lt.2 hn, hs, hi]

/-! ### SHIFT and DRAIN (R145, R188); their rows with an effect are `shift_sends`, `drain_loads`, `drain_completes` -/

theorem shift_refused (hm : s.mode = .scripted) (he : shiftEnabled s = false) :
    exec .shift s = .next (s.setStatus (.refused .eventNotEnabled)) := by
  simp [exec, execShift, shiftWith, ifRunning_of_running hr, he, eventNotEnabled, hm, takeRefusal]

theorem shift_idles (hm : s.mode = .free) (he : shiftEnabled s = false) : exec .shift s = .next s := by
  simp [exec, execShift, shiftWith, ifRunning_of_running hr, he, eventNotEnabled, hm]

theorem drain_refused (hm : s.mode = .scripted) (hq : irq Config.params s = false) :
    exec .drain s = .next (s.setStatus (.refused .eventNotEnabled)) := by
  simp [exec, execDrain, drainWith, ifRunning_of_running hr, hq, eventNotEnabled, hm, takeRefusal]

theorem drain_stale (hq : irq Config.params s = true) (hc : s.cursor < s.length) (hs : s.sending = false) :
    exec .drain s = .next (s.setStatus (.faulted .staleDrain)) := by
  simp [exec, execDrain, drainWith, ifRunning_of_running hr, hq, drainEvent, hc, hs, takeFault]

theorem drain_unwritten (hq : irq Config.params s = true) (hc : s.cursor < s.length) (hs : s.sending = true)
    (hb : s.buf.read s.cursor.toNat = none) : exec .drain s = .next (s.setStatus (.faulted .unwrittenRead)) := by
  simp [exec, execDrain, drainWith, ifRunning_of_running hr, hq, drainEvent, hc, hs, hb, takeFault]

theorem drain_past_the_end (hq : irq Config.params s = true) (hc : s.length < s.cursor) :
    exec .drain s = .next (s.setStatus (.faulted .cursorInvariant)) := by
  have hlt : ¬s.cursor < s.length := by bv_omega
  have hne : s.cursor ≠ s.length := by bv_omega
  simp [exec, execDrain, drainWith, ifRunning_of_running hr, hq, drainEvent, hlt, hne, takeFault]

end Answers

/-! ### What the answers read and write -/

theorem shiftEnabled_eq_false : shiftEnabled s = false ↔ s.txEn = false ∨ s.txq = [] := by
  cases hx : s.txEn <;> simp [shiftEnabled, hx]

theorem irq_of_disabled {p : Params} (hi : s.txIe = false) : irq p s = false := by
  simp [irq, hi]

theorem State.passMarker_eq (s : State) :
    s.passMarker = { s with pc := if s.mode = .scripted then s.pc + 1 else s.pc } := by
  apply State.ext <;> simp

theorem execAll_cons {i : Instr} {is : List Instr} {t : State} (h : exec i s = .next t) :
    execAll (i :: is) s = execAll is t := by
  simp only [execAll, h]

/-- The payload stands from offset 1 on. -/
theorem read_payload_inside {m : Memory} (hd : n.toNat ≤ data.length) {i : Nat} (hi : i < n.toNat) :
    (m.writeFrom 1 (payloadBytes n data)).read (1 + i) = data[i]? := by
  rw [Memory.read_writeFrom, payloadBytes_length hd, if_pos (by omega), Nat.add_sub_cancel_left, payloadBytes,
    List.getElem?_take_of_lt hi]

/-! ### The outcomes -/

/-- Settles O22: the operand selects a convention or none, and then `conv` decides. -/
theorem cfgencOutcomes : Obligations.CfgencOutcomes := by
  refine fun b s hr => ⟨fun h0 h1 => cfgenc_illegal_operand hr (conventionOf_eq_none.2 ⟨h0, h1⟩), fun hb hc => ?_,
    fun hb hc => ?_, fun hb hc => ?_⟩
  · obtain rfl | rfl := hb
    exacts [cfgenc_reconfigure hr (conventionOf_code .A) hc, cfgenc_reconfigure hr (conventionOf_code .B) hc]
  · exact hb ▸ cfgenc_configures hr (conventionOf_code .A) hc
  · exact hb ▸ cfgenc_configures hr (conventionOf_code .B) hc

/-- Settles O23: one answer for each of TXINIT's checks and one for its effect. -/
theorem txinitOutcomes : Obligations.TxinitOutcomes := fun _ _ hr =>
  ⟨txinit_init_order hr, txinit_reinit hr, txinit_rate_range hr, txinit_initialises hr⟩

/-- Settles O24: no packet in flight, or the guard interval waited out, is what the guard check asks for. -/
theorem txienOutcomes : Obligations.TxienOutcomes := by
  refine fun s hr => ⟨txien_not_initialised hr, txien_guard_violation hr, fun hx hg => txien_enables hr hx fun hs => ?_⟩
  obtain hidle | hwaited := hg
  · exact absurd (hs.symm.trans hidle) nofun
  · exact hwaited

/-- Settles O25: with `tx_ie` written 0 the request, which needs it, is down. -/
theorem txidisOutcomes : Obligations.TxidisOutcomes := fun _ hr =>
  ⟨txidis_not_initialised hr, fun hx => ⟨txidis_disables hr hx, irq_of_disabled rfl⟩⟩

/-- Settles O27: one answer for each of LOADB's checks and one for its effect. -/
theorem loadbOutcomes : Obligations.LoadbOutcomes := fun _ _ hr =>
  ⟨loadb_not_initialised hr, loadb_while_sending hr, loadb_not_ready hr, loadb_loads hr⟩

/-- Settles O28: the head of `txq` is sent, the marker's byte passed in scripted mode; without one the event is not
enabled. -/
theorem shiftOutcomes : Obligations.ShiftOutcomes := by
  refine fun s hr => ⟨fun he hm => shift_refused hr hm (shiftEnabled_eq_false.2 he),
    fun he hm => shift_idles hr hm (shiftEnabled_eq_false.2 he), fun t ht => by simp [truthOf, ht],
    fun b rest hx hq => ⟨fun hm => ?_, fun hm => ?_⟩⟩
  · rw [shift_sends hr hx hq, State.passMarker_of_scripted (by simpa using hm)]
    rfl
  · rw [shift_sends hr hx hq, State.passMarker_of_free (by simpa using hm)]
    rfl

/-- Settles O52: one answer for GUARD's check and one for its effect. -/
theorem guardOutcomes : Obligations.GuardOutcomes := fun _ hr => ⟨guard_not_initialised hr, guard_waits hr⟩

/-- Settles O30: the accepted payload reads back at offsets 1 .. n, the cells outside it as before, and `n + 1` does not
wrap. -/
theorem submitOutcomes : Obligations.SubmitOutcomes := by
  refine fun n data s hr => ⟨submit_short_payload hr, submit_too_long hr, fun hd hn hs => ?_, submit_while_enabled hr,
    fun hd hn hs hi => ⟨s.buf.writeFrom 1 (payloadBytes n data), n + 1#8, ?_, length_succ hn,
      fun i hi => read_payload_inside hd hi, fun a ha => read_payload_outside hd ha⟩⟩
  · rw [submit_busy hr hd hn hs, Nat.add_assoc]
    rfl
  · rw [submit_accepted hr hd hn hs hi, Nat.add_assoc]
    rfl

/-- Settles O34: with the interrupt requested, `cursor` is below, at or past `length`; and below it, `sending` and the
cell decide. -/
theorem drainOutcomes : Obligations.DrainOutcomes := by
  refine fun s hr => ⟨fun hq hm => drain_refused hr hm hq, fun hq hm => drain_waits hr hm hq, fun hi hx hroom => ?_⟩
  have hq : irq Config.params s = true := irq_eq_true.2 ⟨hi, hx, hroom⟩
  refine ⟨drain_stale hr hq, drain_unwritten hr hq, fun b hc hs hb => ⟨?_, cursor_succ hc⟩, fun hc => ?_,
    drain_past_the_end hr hq⟩
  · rw [drain_loads hr hq hc hs hb, State.passMarker_eq]
    rfl
  · rw [drain_completes hr hq hc, State.passMarker_eq]
    rfl

/-- Settles O29: from reset CFGENC configures, TXINIT initialises, and the machine they leave has an empty transmitter
and its interrupt off. -/
theorem startUpLeavesTheMachineIdle : Obligations.StartUpLeavesTheMachineIdle := by
  intro b r hb hrate
  obtain ⟨c, hc⟩ : ∃ c, conventionOf b = some c := by
    obtain rfl | rfl := hb
    exacts [⟨.A, rfl⟩, ⟨.B, rfl⟩]
  have hcfg := cfgenc_configures (s := State.reset) rfl hc rfl
  have hinit := txinit_initialises (s := (State.reset.configure c (conventionTruth c)).advance 2) rfl rfl rfl hrate
  refine ⟨_, (execAll_cons hcfg).trans (execAll_cons hinit), rfl, rfl, dre_of_empty rfl rfl, irq_of_disabled rfl,
    rfl, rfl, shift_idles rfl rfl rfl⟩

end Sys2Proof.Machine
end

section
/-! The canonical form of the buffer (`20_memory.md` section 2, `10_state.md` R21). -/

namespace Sys2Proof.Machine

variable {m : Memory}

/-- With offsets rising, the entry listed for an offset is the one that stands in the list. -/
theorem Memory.lookup_eq_some_iff (h : (m.map Prod.fst).Pairwise (· < ·)) {a : Nat} {b : Byte} :
    m.lookup a = some b ↔ (a, b) ∈ m := by
  induction m with
  | nil => simp [Memory.lookup]
  | cons c m ih =>
    obtain ⟨x, y⟩ := c
    simp only [List.map_cons, List.pairwise_cons] at h
    obtain ⟨hhead, htail⟩ := h
    by_cases hx : x = a
    · subst hx
      have hnot : (x, b) ∉ m := fun hm => lt_irrefl x (hhead x (List.mem_map_of_mem hm))
      simp [Memory.lookup, hnot, eq_comm]
    · simp [Memory.lookup, hx, ih htail, Ne.symm hx]

/-- In the canonical form a cell is listed exactly when it does not read as its reset contents. -/
theorem Memory.lookup_eq_some_of_wf (h : m.wf) {a : Nat} {b : Byte} :
    m.lookup a = some b ↔ m.read a = some b ∧ Memory.resetByte a ≠ some b := by
  cases hl : m.lookup a with
  | none =>
    have hread : m.read a = Memory.resetByte a := by simp [Memory.read, hl]
    simp [hread]
  | some d =>
    have hread : m.read a = some d := by simp [Memory.read, hl]
    have hne : Memory.resetByte a ≠ some d := (h.2 (a, d) ((Memory.lookup_eq_some_iff h.1).1 hl)).2
    simp only [hread, Option.some.injEq, iff_self_and]
    rintro rfl
    exact hne

theorem Memory.mem_of_read_eq {n : Memory} (hm : m.wf) (hn : n.wf) (hread : ∀ a < 255, m.read a = n.read a)
    {c : Host.Cell} (hc : c ∈ m) : c ∈ n := by
  obtain ⟨a, b⟩ := c
  have ha : a < 255 := (hm.2 (a, b) hc).1
  rw [← Memory.lookup_eq_some_iff hn.1, Memory.lookup_eq_some_of_wf hn, ← hread a ha, ← Memory.lookup_eq_some_of_wf hm]
  exact (Memory.lookup_eq_some_iff hm.1).2 hc

/-- Settles O33: the reads determine the entries, and the rising offsets their order. -/
theorem canonicalBuffersWithEqualCellsAreEqual : Obligations.CanonicalBuffersWithEqualCellsAreEqual := by
  intro m n hm hn hread
  have hirrefl : Std.Irrefl fun c d : Host.Cell => c.1 < d.1 := ⟨fun c => lt_irrefl c.1⟩
  have hasymm : Std.Antisymm fun c d : Host.Cell => c.1 < d.1 := ⟨fun c d hcd hdc => absurd hdc (lt_asymm hcd)⟩
  exact (List.pairwise_map.1 hm.1).eq_of_mem_iff (List.pairwise_map.1 hn.1) fun c =>
    ⟨Memory.mem_of_read_eq hm hn hread, Memory.mem_of_read_eq hn hm fun a ha => (hread a ha).symm⟩

/-- A payload SUBMIT accepts lies within the 255 cells. -/
theorem Memory.wf_payload {n : Byte} {data : List Byte} (h : m.wf) (hd : n.toNat ≤ data.length) (hn : n.toNat ≤ 254) :
    (m.writeFrom 1 (payloadBytes n data)).wf :=
  Memory.wf_writeFrom h (by rw [payloadBytes_length hd, Config.capacity]; omega)

theorem Effect.keeps_wf {i : Instr} {s t : State} (h : Effect i s t) (hwf : s.buf.wf) : t.buf.wf := by
  obtain hb | ⟨n, data, -, hd, hn, -, hb⟩ := h.buf_cases
  · exact hb ▸ hwf
  · exact hb ▸ Memory.wf_payload hwf hd hn

/-- Settles O32: only an accepted SUBMIT stores, and it stores within the 255 cells. -/
theorem bufferStaysCanonical : Obligations.BufferStaysCanonical := fun _ _ hwf h =>
  step_keeps (P := fun u => u.buf.wf) (fun hp he => (exec_effect he).keeps_wf hp) id id id hwf h

end Sys2Proof.Machine
end

section
/-! The state invariant (`10_state.md` R52, `44_packet_scheduler.md` R209). -/

namespace Sys2Proof.Machine

variable {i : Instr} {s t : State} {n : Byte} {data : List Byte}

/-- What a step that leaves the packet alone has to show for the invariant. -/
theorem StateInv.of_same_packet (h : StateInv s) (hbuf : t.buf = s.buf) (hlen : t.length = s.length)
    (hsend : t.sending = s.sending) (hcur : t.cursor = s.cursor) (henable : t.txIe = true → t.txEn = true)
    (hguard : t.sending = true → t.txIe = true → guardTicks t.bitRate ≤ t.idleTicks) : StateInv t where
  memory := hbuf ▸ h.memory
  startByte := hbuf ▸ h.startByte
  cursorLe := by rw [hcur, hlen]; exact h.cursorLe
  idleCursor := by rw [hsend, hcur]; exact h.idleCursor
  packetLength := by rw [hsend, hlen]; exact h.packetLength
  packetWritten := by rw [hsend, hlen, hbuf]; exact h.packetWritten
  enableInit := henable
  guardWaited := hguard

/-- After an accepted SUBMIT the packet's cells read as the framing byte and the payload. -/
theorem read_storePacket (hstart : s.buf.read 0 = some Config.startByte) (hd : n.toNat ≤ data.length) {a : Nat}
    (ha : a < n.toNat + 1) :
    (s.storePacket n (payloadBytes n data)).buf.read a = (Config.startByte :: data.take n.toNat)[a]? := by
  rw [State.storePacket_buf]
  cases a with
  | zero => rw [read_payload_outside hd (.inl rfl), hstart, List.getElem?_cons_zero]
  | succ a =>
    have ha : a < n.toNat := Nat.lt_of_succ_lt_succ ha
    rw [Nat.add_comm, read_payload_inside hd ha, Nat.add_comm, List.getElem?_cons_succ, List.getElem?_take_of_lt ha]

theorem StateInv.storePacket (h : StateInv s) (hd : n.toNat ≤ data.length) (hn : n.toNat ≤ 254)
    (hs : s.sending = false) (hi : s.txIe = false) : StateInv (s.storePacket n (payloadBytes n data)) where
  memory := Memory.wf_payload h.memory hd hn
  startByte := read_storePacket h.startByte hd (Nat.succ_pos _)
  cursorLe := by rw [State.storePacket_cursor, h.idleCursor hs]; exact Nat.zero_le _
  idleCursor := nofun
  packetLength _ := by rw [State.storePacket_length, length_succ hn]; omega
  packetWritten _ a ha := by
    rw [State.storePacket_length, length_succ hn] at ha
    rw [read_storePacket h.startByte hd ha]
    simpa [hd] using ha
  enableInit := h.enableInit
  guardWaited _ hie := absurd (hi.symm.trans hie) nofun

/-- The cursor moved to a place within the packet. -/
theorem StateInv.setCursor (h : StateInv s) (hs : s.sending = true) {c : BitVec 8} (hc : c ≤ s.length) :
    StateInv (s.setCursor c) :=
  ⟨h.memory, h.startByte, hc, fun hf => absurd (hs.symm.trans hf) nofun, h.packetLength, h.packetWritten, h.enableInit,
    h.guardWaited⟩

theorem StateInv.completePacket (h : StateInv s) : StateInv s.completePacket :=
  ⟨h.memory, h.startByte, Nat.zero_le _, fun _ => rfl, nofun, nofun, nofun, nofun⟩

theorem StateInv.txLoad (h : StateInv s) (b : Byte) : StateInv (s.txLoad b) :=
  h.of_same_packet rfl rfl rfl rfl h.enableInit h.guardWaited

theorem StateInv.shiftOut (h : StateInv s) (levels : List Level) (q : List Byte) : StateInv (s.shiftOut levels q) :=
  h.of_same_packet rfl rfl rfl rfl h.enableInit h.guardWaited

theorem StateInv.advance (h : StateInv s) (k : Nat) : StateInv (s.advance k) :=
  h.of_same_packet rfl rfl rfl rfl h.enableInit h.guardWaited

theorem StateInv.passMarker (h : StateInv s) : StateInv s.passMarker := by
  rw [State.passMarker_eq]
  exact h.of_same_packet rfl rfl rfl rfl h.enableInit h.guardWaited

theorem StateInv.setStatus (h : StateInv s) (st : Status) : StateInv (s.setStatus st) :=
  h.of_same_packet rfl rfl rfl rfl h.enableInit h.guardWaited

theorem StateInv.nextTurn (h : StateInv s) : StateInv s.nextTurn :=
  h.of_same_packet rfl rfl rfl rfl h.enableInit h.guardWaited

theorem succ_cursor_le {c l : BitVec 8} (h : c < l) : c + 1#8 ≤ l := by
  rw [byte_le, cursor_succ h]
  exact byte_lt.1 h

theorem Effect.keeps_inv (h : Effect i s t) (hinv : StateInv s) : StateInv t := by
  cases h with
  | stops => exact hinv.setStatus _
  | nothing => exact hinv
  | cfgenc | busy => exact hinv.of_same_packet rfl rfl rfl rfl hinv.enableInit hinv.guardWaited
  | txinit | txidis => exact hinv.of_same_packet rfl rfl rfl rfl nofun nofun
  | txien hx hg => exact hinv.of_same_packet rfl rfl rfl rfl (fun _ => hx) fun hs _ => hg hs
  | loadb => exact (hinv.txLoad _).advance 2
  | accepted hd hn hs hi =>
    have hpacket := hinv.storePacket hd hn hs hi
    exact hpacket.of_same_packet rfl rfl rfl rfl hpacket.enableInit hpacket.guardWaited
  | guard =>
    exact hinv.of_same_packet rfl rfl rfl rfl hinv.enableInit fun hs hi =>
      (hinv.guardWaited hs hi).trans (Nat.le_add_right _ _)
  | load _ _ _ hc hs => exact ((hinv.txLoad _).setCursor hs (succ_cursor_le hc)).passMarker
  | complete => exact hinv.completePacket.passMarker
  | shift => exact (hinv.shiftOut _ _).passMarker

/-- Settles O40: every effect of an operation keeps the invariant, and what surrounds it in a step does not touch the
fields the invariant speaks of. -/
theorem invariantIsKept : Obligations.InvariantIsKept := fun _ _ hinv h =>
  step_keeps (fun hp he => (exec_effect he).keeps_inv hp) (fun hp => hp.advance _) (fun hp => hp.setStatus _)
    (fun hp => hp.nextTurn) hinv h

theorem stateInv_reset : StateInv State.reset :=
  ⟨Memory.reset_wf, Memory.resetByte_zero, Nat.le_refl _, fun _ => rfl, nofun, nofun, nofun, nofun⟩

/-! ### The faults the invariant excludes -/

/-- DRAIN reads an unwritten cell only of a packet in flight (R189). -/
theorem exec_unwrittenRead (h : exec i s = .next t) (hc : t.status = .faulted .unwrittenRead) :
    s.cursor < s.length ∧ s.sending = true ∧ s.buf.read s.cursor.toNat = none := by
  obtain ⟨hstop, rfl⟩ := exec_stops h hc nofun
  cases hstop with
  | unwrittenRead hb =>
    obtain ⟨-, ⟨-, ⟨-, hn⟩ | ⟨-, hn⟩⟩ | ⟨-, hd⟩⟩ := drainWith_cases h
    · exact absurd (congrArg State.status hn) nofun
    · exact absurd ((congrArg State.status hn).trans (exec_running h)) nofun
    · obtain ⟨hlt, ⟨-, hn⟩ | ⟨hs, -, -⟩ | ⟨hs, -⟩⟩ | ⟨-, hn⟩ | ⟨-, hn⟩ := drainEvent_cases hd
      · exact absurd (congrArg State.status hn) nofun
      · exact ⟨hlt, hs, hb⟩
      · exact ⟨hlt, hs, hb⟩
      · have hrun : Status.faulted .unwrittenRead = s.status := by simpa using congrArg State.status hn
        exact absurd (hrun.trans (exec_running h)) nofun
      · exact absurd (congrArg State.status hn) nofun

/-- Under the invariant an operation records none of the three faults. -/
theorem exec_unreachable_faults (hinv : StateInv s) (h : exec i s = .next t) :
    t.status ≠ .faulted .cursorInvariant ∧ t.status ≠ .faulted .lengthInvariant ∧
      t.status ≠ .faulted .unwrittenRead := by
  refine ⟨fun hc => ?_, fun hc => ?_, fun hc => ?_⟩
  · cases (exec_stops h hc nofun).1 with
    | cursorInvariant hlt => exact BitVec.not_lt.2 hinv.cursorLe hlt
  · cases (exec_stops h hc nofun).1
  · obtain ⟨hlt, hs, hb⟩ := exec_unwrittenRead h hc
    simpa [hb] using hinv.packetWritten hs _ (byte_lt.1 hlt)

/-- Settles O16: a fault is an operation's, `cursor ≤ length` excludes the first, no operation records the second, and
the written cells of a packet in flight exclude the third. -/
theorem invariantFaultsAreUnreachable : Obligations.InvariantFaultsAreUnreachable := by
  intro s t hinv h
  obtain ⟨r, hr, hrun, ⟨i, he⟩ | rfl | ⟨c, rfl⟩⟩ := step_source h
  · refine exec_unreachable_faults ?_ he
    obtain rfl | rfl := hr
    exacts [hinv, hinv.nextTurn]
  · simp [hrun]
  · simp

end Sys2Proof.Machine
end

section
/-! The configuration invariant (`10_state.md` R28 to R34, `40_line_encoder.md` R121, R129) and the relation of the
line to the log (`41_serial_transmitter.md` R146). -/

namespace Sys2Proof.Machine

variable {i : Instr} {s t : State} {p : Params}

/-- What a step that writes no configuration field has to show for the configuration invariant. -/
theorem ConfigInv.of_same_config (h : ConfigInv p s) (hconv : t.conv = s.conv) (htruth : t.encTruth = s.encTruth)
    (henc : encOn t = encOn s) (hen : t.txEn = s.txEn) (hrate : t.bitRate = s.bitRate)
    (hqueue : t.txq.length ≤ p.txStages) (hquiet : t.txEn = false → t.txq = [] ∧ t.txLog = [] ∧ t.line = []) :
    ConfigInv p t where
  unconfigured := by rw [hconv, henc, htruth]; exact h.unconfigured
  configured := by rw [hconv, henc, htruth]; exact h.configured
  encoderFirst := by rw [hen, henc]; exact h.encoderFirst
  rateUnset := by rw [hen, hrate]; exact h.rateUnset
  rateSet := by rw [hen, hrate]; exact h.rateSet
  queueLe := hqueue
  quiet := hquiet

theorem ConfigInv.of_same_traces (h : ConfigInv p s) (hconv : t.conv = s.conv) (htruth : t.encTruth = s.encTruth)
    (henc : encOn t = encOn s) (hen : t.txEn = s.txEn) (hrate : t.bitRate = s.bitRate) (hq : t.txq = s.txq)
    (hlog : t.txLog = s.txLog) (hline : t.line = s.line) : ConfigInv p t :=
  h.of_same_config hconv htruth henc hen hrate (hq ▸ h.queueLe) (by rw [hen, hq, hlog, hline]; exact h.quiet)

theorem ConfigInv.advance (h : ConfigInv p s) (k : Nat) : ConfigInv p (s.advance k) :=
  h.of_same_traces rfl rfl rfl rfl rfl rfl rfl rfl

/-- Nothing is required of the quiet fields once the transmitter is on. -/
theorem not_quiet {P : Prop} (hx : s.txEn = true) (hf : s.txEn = false) : P := absurd (hx.symm.trans hf) nofun

theorem ConfigInv.configure (h : ConfigInv p s) (c : Convention) :
    ConfigInv p (s.configure c (conventionTruth c)) where
  unconfigured := nofun
  configured d hd := by
    obtain rfl : c = d := by simpa using hd
    exact ⟨rfl, rfl⟩
  encoderFirst _ := rfl
  rateUnset := h.rateUnset
  rateSet := h.rateSet
  queueLe := h.queueLe
  quiet := h.quiet

theorem ConfigInv.initialise (h : ConfigInv p s) (he : encOn s = true) {r : BitVec 32}
    (hr : Config.minBitRate ≤ r.toNat) : ConfigInv p (s.initialise r) where
  unconfigured := h.unconfigured
  configured := h.configured
  encoderFirst _ := he
  rateUnset := nofun
  rateSet _ := ⟨r, rfl, hr⟩
  queueLe := h.queueLe
  quiet := nofun

theorem ConfigInv.txLoad (h : ConfigInv p s) (hx : s.txEn = true) (hq : s.txq.length < p.txStages) (b : Byte) :
    ConfigInv p (s.txLoad b) :=
  h.of_same_config rfl rfl rfl rfl rfl (by simpa using hq) fun hf => not_quiet hx hf

theorem ConfigInv.shiftOut (h : ConfigInv p s) (hx : s.txEn = true) {b : Byte} {rest : List Byte}
    (hq : s.txq = b :: rest) (levels : List Level) : ConfigInv p (s.shiftOut levels rest) := by
  have hle : rest.length + 1 ≤ p.txStages := by simpa [hq] using h.queueLe
  exact h.of_same_config rfl rfl rfl rfl rfl (Nat.le_of_succ_le hle) fun hf => not_quiet hx hf

theorem ConfigInv.passMarker (h : ConfigInv p s) : ConfigInv p s.passMarker := by
  rw [State.passMarker_eq]
  exact h.of_same_traces rfl rfl rfl rfl rfl rfl rfl rfl

theorem Effect.keeps_config (h : Effect i s t) (hconf : ConfigInv Config.params s) : ConfigInv Config.params t := by
  cases h with
  | nothing => exact hconf
  | stops | txien | txidis | busy | accepted | guard => exact hconf.of_same_traces rfl rfl rfl rfl rfl rfl rfl rfl
  | @cfgenc _ _ c => exact (hconf.configure c).advance 2
  | txinit he _ hr => exact (hconf.initialise he hr).advance 5
  | @loadb b _ hx _ hq => exact (hconf.txLoad hx hq b).advance 2
  | @load _ b _ hx hq =>
    exact ((hconf.txLoad hx hq b).of_same_traces (t := (s.txLoad b).setCursor (s.cursor + 1#8))
      rfl rfl rfl rfl rfl rfl rfl rfl).passMarker
  | complete =>
    exact (hconf.of_same_traces (t := s.completePacket) rfl rfl rfl rfl rfl rfl rfl rfl).passMarker
  | shift hx hq => exact (hconf.shiftOut hx hq _).passMarker

theorem step_keeps_config (hconf : ConfigInv Config.params s) (h : step s = .next t) : ConfigInv Config.params t :=
  step_keeps (P := ConfigInv Config.params) (fun hp he => (exec_effect he).keeps_config hp)
    (fun hp => hp.advance _) (fun hp => hp.of_same_traces rfl rfl rfl rfl rfl rfl rfl rfl)
    (fun hp => hp.of_same_traces rfl rfl rfl rfl rfl rfl rfl rfl) hconf h

/-- Settles O41: CFGENC and TXINIT establish their part of the configuration, a load needs room and an enabled
transmitter, and the other effects write none of these fields. -/
theorem configurationInvariantIsKept : Obligations.ConfigurationInvariantIsKept := fun _ _ => step_keeps_config

/-! ### The line and the log -/

theorem LineEncodesLog.of_same_traces (h : LineEncodesLog p s) (htruth : t.encTruth = s.encTruth)
    (hq : t.txq = s.txq) (hlog : t.txLog = s.txLog) (hline : t.line = s.line) : LineEncodesLog p t := by
  rw [LineEncodesLog, truthOf_congr htruth, hq, hlog, hline]
  exact h

theorem LineEncodesLog.txLoad (h : LineEncodesLog p s) (b : Byte) : LineEncodesLog p (s.txLoad b) := by
  obtain ⟨sent, hlog, hline⟩ := h
  exact ⟨sent, by simp [hlog], hline⟩

theorem LineEncodesLog.shiftOut (h : LineEncodesLog p s) {b : Byte} {rest : List Byte} (hq : s.txq = b :: rest) :
    LineEncodesLog p (s.shiftOut (manchByte p (truthOf s) b) rest) := by
  obtain ⟨sent, hlog, hline⟩ := h
  refine ⟨sent ++ [b], by simp [hlog, hq], ?_⟩
  rw [manchPacket_append, manchPacket_singleton]
  exact congrArg (· ++ manchByte p (truthOf s) b) hline

/-- Before TXINIT both traces are empty, and then the relation says nothing of the table. -/
theorem lineEncodesLog_of_quiet (hq : t.txq = []) (hlog : t.txLog = []) (hline : t.line = []) :
    LineEncodesLog p t := ⟨[], by simp [hq, hlog], by simp [hline]⟩

theorem LineEncodesLog.passMarker (h : LineEncodesLog p s) : LineEncodesLog p s.passMarker :=
  h.of_same_traces (by simp) (by simp) (by simp) (by simp)

theorem LineEncodesLog.line_of_empty (h : LineEncodesLog p s) (hq : s.txq = []) :
    s.line = manchPacket p (truthOf s) s.txLog := by
  obtain ⟨sent, hlog, hline⟩ := h
  rw [hline, hlog, hq, List.append_nil]

/-- CFGENC finds the transmitter off, the encoder being off till then (R121, R129). -/
theorem ConfigInv.txEn_of_unconfigured (h : ConfigInv p s) (hc : s.conv = none) : s.txEn = false := by
  by_contra hx
  have hon := h.encoderFirst (by simpa using hx)
  exact absurd ((h.unconfigured hc).1.symm.trans hon) nofun

/-- Every effect keeps the relation, CFGENC's if nothing has been loaded or sent when it comes. -/
theorem Effect.keeps_lineEncodesLog (h : Effect i s t) (hlog : LineEncodesLog Config.params s)
    (hquiet : (∃ b, i = .cfgenc b) → s.conv = none → s.txq = [] ∧ s.txLog = [] ∧ s.line = []) :
    LineEncodesLog Config.params t := by
  cases h with
  | nothing => exact hlog
  | stops | txinit | txien | txidis | busy | accepted | guard => exact hlog.of_same_traces rfl rfl rfl rfl
  | cfgenc _ hc =>
    obtain ⟨hq, hl, hline⟩ := hquiet ⟨_, rfl⟩ hc
    exact lineEncodesLog_of_quiet hq hl hline
  | loadb => exact (hlog.txLoad _).of_same_traces rfl rfl rfl rfl
  | @load _ b =>
    exact ((hlog.txLoad b).of_same_traces (t := (s.txLoad b).setCursor (s.cursor + 1#8)) rfl rfl rfl rfl).passMarker
  | complete => exact (hlog.of_same_traces (t := s.completePacket) rfl rfl rfl rfl).passMarker
  | shift _ hq => exact (hlog.shiftOut hq).passMarker

/-- The configuration invariant together with the relation of the line to the log, which CFGENC keeps only with it. -/
def Encoded (s : State) : Prop := ConfigInv Config.params s ∧ LineEncodesLog Config.params s

theorem step_keeps_encoded (hs : Encoded s) (h : step s = .next t) : Encoded t := by
  refine step_keeps (P := Encoded) (fun ⟨hconf, hlog⟩ he => ?_) (fun ⟨hconf, hlog⟩ => ?_) (fun ⟨hconf, hlog⟩ => ?_)
    (fun ⟨hconf, hlog⟩ => ?_) hs h
  · exact ⟨(exec_effect he).keeps_config hconf, (exec_effect he).keeps_lineEncodesLog hlog fun _ hc =>
      hconf.quiet (hconf.txEn_of_unconfigured hc)⟩
  all_goals exact ⟨hconf.of_same_traces rfl rfl rfl rfl rfl rfl rfl rfl,
    hlog.of_same_traces rfl rfl rfl rfl⟩

/-- Settles O42: a load puts its byte at the end of both log and queue, a shift moves the queue's head to the line,
and the table is loaded while both traces are empty. -/
theorem lineIsTheEncodingOfTheLog : Obligations.LineIsTheEncodingOfTheLog := by
  intro s t hconf hlog h
  obtain ⟨-, ht⟩ := step_keeps_encoded ⟨hconf, hlog⟩ h
  exact ⟨ht, ht.line_of_empty⟩

theorem configInv_reset : ConfigInv p State.reset where
  unconfigured _ := ⟨rfl, rfl⟩
  configured := nofun
  encoderFirst := nofun
  rateUnset _ := rfl
  rateSet := nofun
  queueLe := Nat.zero_le _
  quiet _ := ⟨rfl, rfl, rfl⟩

/-- Settles O39: the reset fields meet each item, most of them because nothing is enabled or in flight. -/
theorem invariantsHoldAtReset : Obligations.InvariantsHoldAtReset :=
  ⟨stateInv_reset, configInv_reset, lineEncodesLog_of_quiet rfl rfl rfl⟩

end Sys2Proof.Machine
end

section
/-! The order of the bytes of a packet (`43_drain_state_machine.md` R195). -/

namespace Sys2Proof.Machine

variable {i : Instr} {s t : State} {a : Agent} {before : List Byte}

/-- What becomes in a step of a packet in flight: its cells stay, and it is still in flight with what was loaded of it
since the log was `before`, or it is complete and the log holds all of it. -/
def PacketGoesOn (before : List Byte) (s t : State) : Prop :=
  packetCells t = packetCells s ∧
    ((t.sending = true ∧ LoadedSince before t) ∨
      (t.sending = false ∧ t.txLog.map some = before.map some ++ packetCells s))

theorem packetGoesOn_of_same (hs : s.sending = true) (hlog : LoadedSince before s) (hbuf : t.buf = s.buf)
    (hlen : t.length = s.length) (hsend : t.sending = s.sending) (hcur : t.cursor = s.cursor)
    (hlog' : t.txLog = s.txLog) : PacketGoesOn before s t :=
  ⟨packetCells_congr hbuf hlen, .inl ⟨hsend.trans hs, (loadedSince_congr hlog' hcur hbuf hlen).2 hlog⟩⟩

/-- A loading DRAIN moves one cell of the packet across the cursor. -/
theorem loadedSince_load {b : Byte} (hlog : LoadedSince before s) (hc : s.cursor < s.length)
    (hb : s.buf.read s.cursor.toNat = some b) : LoadedSince before ((s.txLoad b).setCursor (s.cursor + 1#8)) := by
  have hcells : packetCells ((s.txLoad b).setCursor (s.cursor + 1#8)) = packetCells s := packetCells_congr rfl rfl
  have hget : (packetCells s)[s.cursor.toNat]? = some (some b) := by rw [packetCells_get (byte_lt.1 hc), hb]
  simp only [LoadedSince] at hlog ⊢
  rw [hcells, State.setCursor_cursor, cursor_succ hc, List.take_add_one, hget, State.setCursor_txLog,
    State.txLoad_txLog, List.map_append, hlog, List.append_assoc]
  rfl

theorem Effect.packetGoesOn (h : Effect i s t) (hs : s.sending = true) (hlog : LoadedSince before s)
    (ht : t.status = .running) : PacketGoesOn before s t := by
  have hidle : ∀ {P : Prop}, s.sending = false → P := fun hf => absurd (hs.symm.trans hf) nofun
  cases h with
  | stops hst => exact absurd ht hst
  | nothing | cfgenc | txinit | txien | txidis | busy | guard =>
    exact packetGoesOn_of_same hs hlog rfl rfl rfl rfl rfl
  | loadb _ hf => exact hidle hf
  | accepted _ _ hf => exact hidle hf
  | load _ _ _ hc _ hb =>
    have hload := loadedSince_load hlog hc hb
    exact ⟨packetCells_congr (by simp) (by simp), .inl ⟨by simpa using hs,
      (loadedSince_congr (by simp) (by simp) (by simp) (by simp)).2 hload⟩⟩
  | complete _ _ _ hc =>
    refine ⟨packetCells_congr (by simp) (by simp), .inr ⟨by simp, ?_⟩⟩
    rw [LoadedSince, hc, ← packetCells_length, List.take_length] at hlog
    simpa using hlog
  | shift => exact packetGoesOn_of_same hs hlog (by simp) (by simp) (by simp) (by simp) (by simp)

theorem agentStep_packetGoesOn (hs : s.sending = true) (hlog : LoadedSince before s) (h : agentStep a s = .next t)
    (ht : t.status = .running) : PacketGoesOn before s t :=
  agentStep_source (P := fun u => u.status = .running → PacketGoesOn before s u)
    (fun _ he hu => (exec_effect he).packetGoesOn hs hlog hu)
    (fun _ => packetGoesOn_of_same hs hlog rfl rfl rfl rfl rfl)
    (fun _ _ => packetGoesOn_of_same hs hlog rfl rfl rfl rfl rfl) h ht

/-- The cells of the packet an accepted SUBMIT stores. -/
theorem packetCells_storePacket {n : Byte} {data : List Byte} (hstart : s.buf.read 0 = some Config.startByte)
    (hd : n.toNat ≤ data.length) (hn : n.toNat ≤ 254) :
    packetCells (s.storePacket n (payloadBytes n data)) = (Config.startByte :: data.take n.toNat).map some := by
  apply List.ext_getElem?
  intro a
  by_cases ha : a < n.toNat + 1
  · have hcell : a < (s.storePacket n (payloadBytes n data)).length.toNat := by
      rwa [State.storePacket_length, length_succ hn]
    have hlt : a < (Config.startByte :: data.take n.toNat).length := by simpa [hd] using ha
    rw [packetCells_get hcell, read_storePacket hstart hd ha, List.getElem?_map, List.getElem?_eq_getElem hlt]
    rfl
  · rw [List.getElem?_eq_none (by simpa [length_succ hn] using ha), List.getElem?_eq_none (by simpa [hd] using ha)]

/-- Settles O43: an accepted SUBMIT stores the packet with nothing of it loaded, the cursor being 0; then a loading
DRAIN is the one effect on log and cursor until the completing DRAIN, which finds the cursor at the end. -/
theorem bytesAreLoadedInOrderOnceEach : Obligations.BytesAreLoadedInOrderOnceEach := by
  refine ⟨fun n data s t hinv h ht hok => ?_, fun before s t _ hs hlog h ht => ?_⟩
  · obtain ⟨-, hd, ⟨-, rfl⟩ | ⟨-, -, rfl⟩ | ⟨-, -, -, rfl⟩ | ⟨hn, hs, -, rfl⟩⟩ := execSubmit_cases h
    · cases ht
    · cases hok
    · cases ht
    · have hcur : s.cursor = 0#8 := hinv.idleCursor hs
      exact ⟨packetCells_storePacket hinv.startByte hd hn, by simp [LoadedSince, hcur]⟩
  · obtain ⟨-, ⟨-, ha⟩ | ⟨-, a, -, ha⟩⟩ := step_agent h
    · exact agentStep_packetGoesOn hs hlog ha ht
    · exact agentStep_packetGoesOn (s := s.nextTurn) hs hlog ha ht

end Sys2Proof.Machine
end

section
/-! The laws of the encoder (`40_line_encoder.md` section 1 and section 4). -/

namespace Sys2Proof.Machine

/-- Settles O17: the index of `lut` is `2 clk + ser`, the two tables have four entries each, and the output is gated by
`enc_on`. -/
theorem truthTablesAreXorAndXnor : Obligations.TruthTablesAreXorAndXnor := by
  refine ⟨fun t ser clk => ?_, fun ser clk => ?_, fun ser clk => ?_, fun s t ser clk he ht => ?_,
    fun s ser clk he => ?_⟩
  · cases ser <;> cases clk <;> rfl
  · cases ser <;> cases clk <;> rfl
  · cases ser <;> cases clk <;> rfl
  · simp [encOut, he, truthOf, ht]
  · simp [encOut, he]

theorem manchBit_complement (d : Level) : manchBit 0x9 d = (manchBit 0x6 d).map (!·) := by
  rw [manchBit_xnor, manchBit_xor]
  simp

theorem manchByte_complement (p : Params) (b : Byte) : manchByte p 0x9 b = (manchByte p 0x6 b).map (!·) := by
  rw [manchByte, manchByte, List.map_flatMap]
  exact congrArg (wireBits p b).flatMap (funext manchBit_complement)

theorem manchPacket_complement (p : Params) (bs : List Byte) :
    manchPacket p 0x9 bs = (manchPacket p 0x6 bs).map (!·) := by
  rw [manchPacket, manchPacket, List.map_flatMap]
  exact congrArg bs.flatMap (funext (manchByte_complement p))

/-- Settles O20: the cells of a bit are complements, and complementing goes through the concatenation of cells and
frames. -/
theorem conventionsAreComplements : Obligations.ConventionsAreComplements :=
  ⟨manchBit_complement, manchByte_complement, manchPacket_complement⟩

/-- The two levels of a bit cell that begins with `h`. -/
def cellOf (h : Level) : List Level := [h, !h]

/-- With either table a bit cell is a level and its complement. -/
theorem manchBit_eq_cellOf {t : BitVec 4} (ht : t = 0x6 ∨ t = 0x9) (d : Level) :
    manchBit t d = cellOf (lut t d Config.clkFirst) := by
  obtain rfl | rfl := ht <;> cases d <;> rfl

/-- The levels of a packet are bit cells, one after another. -/
theorem manchPacket_eq_cells {t : BitVec 4} (ht : t = 0x6 ∨ t = 0x9) (p : Params) (bs : List Byte) :
    ∃ hs : List Level, manchPacket p t bs = hs.flatMap cellOf := by
  refine ⟨(bs.flatMap (wireBits p)).map fun d => lut t d Config.clkFirst, ?_⟩
  rw [List.flatMap_map, List.flatMap_assoc]
  have hframe : manchByte p t = fun b => (wireBits p b).flatMap fun d => cellOf (lut t d Config.clkFirst) :=
    funext fun b => congrArg (wireBits p b).flatMap (funext (manchBit_eq_cellOf ht))
  rw [manchPacket, hframe]

/-- Of three levels in a row two are the halves of one cell. -/
theorem cells_never_three_equal (hs : List Level) {k : Nat} {x y z : Level} (hx : (hs.flatMap cellOf)[k]? = some x)
    (hy : (hs.flatMap cellOf)[k + 1]? = some y) (hz : (hs.flatMap cellOf)[k + 2]? = some z) : ¬(x = y ∧ y = z) := by
  induction hs generalizing k with
  | nil => simp at hx
  | cons h hs ih =>
    simp only [List.flatMap_cons, cellOf, List.cons_append, List.nil_append] at hx hy hz
    match k with
    | 0 =>
      obtain rfl : h = x := by simpa using hx
      obtain rfl : (!h) = y := by simpa using hy
      simp
    | 1 =>
      cases hs with
      | nil => simp at hz
      | cons g hs =>
        obtain rfl : g = y := by simpa [cellOf] using hy
        obtain rfl : (!g) = z := by simpa [cellOf] using hz
        simp
    | k + 2 => exact ih hx hy hz

/-- Settles O21: the levels are bit cells of a level and its complement, in which no three in a row are equal. -/
theorem everyBitCellHasATransition : Obligations.EveryBitCellHasATransition := by
  refine fun p t ht => ⟨fun d => ⟨_, manchBit_eq_cellOf ht d⟩, ?_, fun bs k x y z hx hy hz => ?_⟩
  · obtain rfl | rfl := ht <;> rfl
  · obtain ⟨hs, hcells⟩ := manchPacket_eq_cells ht p bs
    rw [hcells] at hx hy hz
    exact cells_never_three_equal hs hx hy hz

end Sys2Proof.Machine
end

section
/-! Scripted and free mode (`30_encoding.md` R104), and the outputs no step reads (`10_state.md` R38, R39,
`42_transmit_buffer.md` R171). -/

namespace Sys2Proof.Machine

variable {i : Instr} {s t : State}

/-- The state, read in free mode. -/
def State.inFreeMode (s : State) : State := { s with mode := .free }

/-- An effect in scripted mode is the operation's answer in free mode, where a marker has no byte to pass. -/
theorem Effect.exec_inFreeMode (h : Effect i s t) (hm : s.mode = .scripted) (hr : s.status = .running)
    (ht : t.status = .running) :
    exec i s.inFreeMode = .next { t with mode := .free, pc := if i.isMarker then s.pc else t.pc } := by
  have hrun : s.inFreeMode.status = .running := hr
  cases h with
  | stops hst => exact absurd ht hst
  | nothing hf => exact absurd (hm.symm.trans hf) nofun
  | cfgenc hb hc => exact cfgenc_configures hrun hb hc
  | txinit he hx hrate => exact txinit_initialises hrun he hx hrate
  | txien hx hg => exact txien_enables hrun hx hg
  | txidis hx => exact txidis_disables hrun hx
  | loadb hx hs hq => exact loadb_loads hrun hx hs hq
  | busy hd hn hs => exact submit_busy hrun hd hn hs
  | accepted hd hn hs hi => exact submit_accepted hrun hd hn hs hi
  | guard hx => exact guard_waits hrun hx
  | load hi hx hq hc hs hb =>
    rw [drain_loads hrun (irq_eq_true.2 ⟨hi, hx, hq⟩) hc hs hb, State.passMarker_of_free rfl, State.passMarker_eq]
    rfl
  | complete hi hx hq hc =>
    rw [drain_completes hrun (irq_eq_true.2 ⟨hi, hx, hq⟩) hc, State.passMarker_of_free rfl, State.passMarker_eq]
    rfl
  | shift hx hq =>
    rw [shift_sends hrun hx hq, State.passMarker_of_free rfl, State.passMarker_eq]
    rfl

/-- Settles O11: an operation that leaves the machine running read nothing of the mode but whether a marker has a
byte. -/
theorem scriptedStepIsAFreeStep : Obligations.ScriptedStepIsAFreeStep := fun _ _ _ hm h ht =>
  (exec_effect h).exec_inFreeMode hm (exec_running h) ht

/-! ### The outputs -/

/-- The state with other values of `line`, `tx_log` and `ok`. -/
def State.withOutputs (s : State) (l : List Level) (g : List Byte) (o : Bool) : State :=
  { s with line := l, txLog := g, ok := o }

@[simp] theorem State.withOutputs_mode (s : State) (l : List Level) (g : List Byte) (o : Bool) :
    (s.withOutputs l g o).mode = s.mode := rfl
@[simp] theorem State.withOutputs_txq (s : State) (l : List Level) (g : List Byte) (o : Bool) :
    (s.withOutputs l g o).txq = s.txq := rfl
@[simp] theorem State.withOutputs_buf (s : State) (l : List Level) (g : List Byte) (o : Bool) :
    (s.withOutputs l g o).buf = s.buf := rfl
@[simp] theorem State.withOutputs_cursor (s : State) (l : List Level) (g : List Byte) (o : Bool) :
    (s.withOutputs l g o).cursor = s.cursor := rfl

/-- Two outcomes of the same kind, with the same code or with states that differ in the outputs at most. -/
def SameButOutputs : Result → Result → Prop
  | .next t, .next u => u.withOutputs t.line t.txLog t.ok = t
  | .fault c, .fault d => c = d
  | .refused c, .refused d => c = d
  | _, _ => False

section Outputs

variable {k k' q q' : Result} {l : List Level} {g : List Byte} {o : Bool}

theorem SameButOutputs.ite {c : Prop} [Decidable c] (hk : SameButOutputs k k') (hq : SameButOutputs q q') :
    SameButOutputs (if c then k else q) (if c then k' else q') := by
  split
  exacts [hk, hq]

theorem SameButOutputs.ifRunning (hk : SameButOutputs k k') :
    SameButOutputs (ifRunning s k) (ifRunning (s.withOutputs l g o) k') := by
  cases hs : s.status with
  | running => rwa [ifRunning_of_running hs, ifRunning_of_running (s := s.withOutputs l g o) hs]
  | faulted c =>
    rw [ifRunning_of_faulted hs, ifRunning_of_faulted (s := s.withOutputs l g o) hs]
    rfl
  | refused c =>
    rw [ifRunning_of_refused hs, ifRunning_of_refused (s := s.withOutputs l g o) hs]
    rfl

theorem SameButOutputs.passMarker {u : State} (h : u.withOutputs t.line t.txLog t.ok = t) :
    SameButOutputs (.next t.passMarker) (.next u.passMarker) := by
  rw [← h, State.passMarker_eq, State.passMarker_eq]
  rfl

theorem SameButOutputs.eventNotEnabled :
    SameButOutputs (eventNotEnabled s) (eventNotEnabled (s.withOutputs l g o)) := by
  cases hm : s.mode <;>
  · simp only [Machine.eventNotEnabled, State.withOutputs_mode, hm]
    rfl

theorem SameButOutputs.drainEvent : SameButOutputs (drainEvent s) (drainEvent (s.withOutputs l g o)) := by
  refine .ite (.ite rfl ?_) (.ite (.passMarker rfl) rfl)
  cases hb : s.buf.read s.cursor.toNat with
  | none =>
    simp only [State.withOutputs_buf, State.withOutputs_cursor, hb]
    rfl
  | some b =>
    simp only [State.withOutputs_buf, State.withOutputs_cursor, hb]
    exact .passMarker rfl

theorem SameButOutputs.shiftEvent {p : Params} :
    SameButOutputs (shiftEvent p s) (shiftEvent p (s.withOutputs l g o)) := by
  cases hq : s.txq with
  | nil =>
    simp only [Machine.shiftEvent, State.withOutputs_txq, hq]
    exact .eventNotEnabled
  | cons b rest =>
    simp only [Machine.shiftEvent, State.withOutputs_txq, hq]
    exact .passMarker rfl

/-- No operation reads an output: its checks are the same on both states, and so are its writes. -/
theorem SameButOutputs.exec (i : Instr) : SameButOutputs (exec i s) (exec i (s.withOutputs l g o)) := by
  cases i with
  | cfgenc b =>
    refine .ifRunning ?_
    cases conventionOf b with
    | none => rfl
    | some c => exact .ite rfl rfl
  | txinit r => exact .ifRunning (.ite rfl (.ite rfl (.ite rfl rfl)))
  | txien => exact .ifRunning (.ite rfl (.ite rfl rfl))
  | txidis => exact .ifRunning (.ite rfl rfl)
  | loadb b => exact .ifRunning (.ite rfl (.ite rfl (.ite rfl rfl)))
  | submit n data => exact .ifRunning (.ite rfl (.ite rfl (.ite rfl (.ite rfl rfl))))
  | guard => exact .ifRunning (.ite rfl rfl)
  | drain => exact .ifRunning (.ite .drainEvent .eventNotEnabled)
  | shift => exact .ifRunning (.ite .shiftEvent .eventNotEnabled)

theorem SameButOutputs.hostStep : SameButOutputs (hostStep s) (hostStep (s.withOutputs l g o)) := by
  have hfetch : fetch (s.withOutputs l g o) = fetch s := rfl
  unfold Machine.hostStep
  rw [hfetch]
  split
  · rename_i r _
    cases hm : s.mode with
    | scripted =>
      rw [hostCommand_of_scripted hm, hostCommand_of_scripted (s := s.withOutputs l g o) hm]
      exact .exec r.1
    | free =>
      cases hi : r.1.isMarker with
      | true =>
        rw [hostCommand_of_marker hm hi, hostCommand_of_marker (s := s.withOutputs l g o) hm hi]
        rfl
      | false =>
        rw [hostCommand_of_operation hm hi, hostCommand_of_operation (s := s.withOutputs l g o) hm hi]
        exact .exec r.1
  all_goals rfl

theorem SameButOutputs.agentStep (a : Agent) :
    SameButOutputs (agentStep a s) (agentStep a (s.withOutputs l g o)) := by
  cases a with
  | host => exact .ifRunning .hostStep
  | drain => exact .exec .drain
  | shifter => exact .exec .shift

theorem SameButOutputs.step : SameButOutputs (step s) (step (s.withOutputs l g o)) := by
  refine .ifRunning ?_
  cases hm : s.mode with
  | scripted =>
    simp only [State.withOutputs_mode, hm]
    exact .hostStep
  | free =>
    have hsched : scheduled (s.withOutputs l g o) = scheduled s := rfl
    simp only [State.withOutputs_mode, hm, freeStep, hsched]
    cases scheduled s with
    | none => rfl
    | some a => exact .agentStep a

end Outputs

/-- Settles O12: the checks of every step are the same on both states, and the two ends differ in the outputs at most.
-/
theorem outputsAreNeverRead : Obligations.OutputsAreNeverRead := fun _ _ _ _ => SameButOutputs.step

end Sys2Proof.Machine
end

section
/-! What each operation writes and what it leaves unchanged, read off its effects (`20_memory.md` section 3,
`10_state.md` R38, R39, R48, R52). -/

namespace Sys2Proof.Machine

variable {i : Instr} {s t : State}

/-! ### Field by field -/

/-- An accepted SUBMIT, and the state it leaves (R170). -/
def Accepted (i : Instr) (s t : State) : Prop :=
  ∃ (n : Byte) (data : List Byte), i = .submit n data ∧ n.toNat ≤ 254 ∧ s.sending = false ∧ s.txIe = false ∧
    t = ((s.storePacket n (payloadBytes n data)).setOk true).advance (2 + n.toNat)

/-- A DRAIN that found the cursor at the end, and the state it leaves (R188 row 2). -/
def Completed (i : Instr) (s t : State) : Prop :=
  i = .drain ∧ s.cursor = s.length ∧ t = s.completePacket.passMarker

theorem Effect.packet_cases (h : Effect i s t) : (t.buf = s.buf ∧ t.length = s.length) ∨ Accepted i s t := by
  cases h with
  | accepted _ hn hs hi => exact .inr ⟨_, _, rfl, hn, hs, hi, rfl⟩
  | _ => exact .inl (by simp)

theorem Effect.sending_cases (h : Effect i s t) : t.sending = s.sending ∨ Accepted i s t ∨ Completed i s t := by
  cases h with
  | accepted _ hn hs hi => exact .inr (.inl ⟨_, _, rfl, hn, hs, hi, rfl⟩)
  | complete _ _ _ hc => exact .inr (.inr ⟨rfl, hc, rfl⟩)
  | _ => exact .inl (by simp)

theorem Effect.cursor_cases (h : Effect i s t) : t.cursor = s.cursor ∨ i = .drain := by
  cases h with
  | load | complete => exact .inr rfl
  | _ => exact .inl (by simp)

/-- `tx_ie` rises only in a TXIEN that met the guard, and falls only in TXINIT, TXIDIS and a completing DRAIN. -/
theorem Effect.txIe_cases (h : Effect i s t) :
    t.txIe = s.txIe ∨ (i = .txien ∧ (s.sending = true → guardTicks s.bitRate ≤ s.idleTicks)) ∨
      (t.txIe = false ∧ ((∃ r, i = .txinit r) ∨ i = .txidis ∨ i = .drain)) := by
  cases h with
  | txien _ hg => exact .inr (.inl ⟨rfl, hg⟩)
  | txinit => exact .inr (.inr ⟨rfl, .inl ⟨_, rfl⟩⟩)
  | txidis => exact .inr (.inr ⟨rfl, .inr (.inl rfl)⟩)
  | complete => exact .inr (.inr ⟨by simp, .inr (.inr rfl)⟩)
  | _ => exact .inl (by simp)

theorem Effect.txq_cases (h : Effect i s t) :
    t.txq = s.txq ∨ (((∃ b, i = .loadb b) ∨ i = .drain) ∧ ∃ b, t.txq = s.txq ++ [b]) ∨
      (i = .shift ∧ ∃ b, s.txq = b :: t.txq) := by
  cases h with
  | loadb => exact .inr (.inl ⟨.inl ⟨_, rfl⟩, _, rfl⟩)
  | @load _ b => exact .inr (.inl ⟨.inr rfl, b, by simp⟩)
  | @shift _ b _ _ hq => exact .inr (.inr ⟨rfl, b, by simp [hq]⟩)
  | _ => exact .inl (by simp)

theorem Effect.line_cases (h : Effect i s t) :
    t.line = s.line ∨ (i = .shift ∧ ∃ b, s.txq = b :: t.txq ∧
      t.line = s.line ++ manchByte Config.params (truthOf s) b) := by
  cases h with
  | @shift _ b _ _ hq => exact .inr ⟨rfl, b, by simp [hq], by simp⟩
  | _ => exact .inl (by simp)

theorem Effect.idleTicks_cases (h : Effect i s t) :
    t.idleTicks = s.idleTicks ∨ (i = .guard ∧ t.idleTicks = s.idleTicks + guardTicks s.bitRate) ∨
      (i = .drain ∧ s.cursor = s.length ∧ t.idleTicks = 0) := by
  cases h with
  | guard => exact .inr (.inl ⟨rfl, rfl⟩)
  | complete _ _ _ hc => exact .inr (.inr ⟨rfl, hc, by simp⟩)
  | _ => exact .inl (by simp)

/-- SHIFT writes the line, the queue, `pc` and `status`. -/
theorem Effect.shift_frame (h : Effect .shift s t) :
    t = { s with line := t.line, txq := t.txq, pc := t.pc, status := t.status } := by
  cases h with
  | stops | nothing => rfl
  | shift =>
    rw [State.passMarker_eq]
    rfl

theorem Accepted.sending (h : Accepted i s t) : t.sending = true ∧ t.ok = true := by
  obtain ⟨n, data, -, -, -, -, rfl⟩ := h
  exact ⟨rfl, rfl⟩

theorem Completed.sending (h : Completed i s t) : t.sending = false := by
  obtain ⟨-, -, rfl⟩ := h
  simp

/-! ### Relations of a state to the next -/

/-- What relates the ends of every operation, and what neither `pc`, nor `status`, nor the turn counter can break,
relates the ends of every step. -/
theorem step_relates {R : State → State → Prop} (hexec : ∀ {i s t}, exec i s = .next t → R s t)
    (hpc : ∀ s, R s (s.advance 1)) (hstatus : ∀ s c, R s (s.setStatus (.refused c)))
    (hturn : ∀ {s t}, R s.nextTurn t → R s t) (h : step s = .next t) : R s t := by
  obtain ⟨-, ⟨-, ha⟩ | ⟨-, a, -, ha⟩⟩ := step_agent h
  · exact agentStep_source (P := R s) (fun _ he => hexec he) (hpc s) (hstatus s) ha
  · exact hturn (agentStep_source (P := R s.nextTurn) (fun _ he => hexec he) (hpc _) (hstatus _) ha)

theorem exec_keeps_packet_while_sending (h : exec i s = .next t) (hs : s.sending = true) :
    t.buf = s.buf ∧ t.length = s.length := by
  obtain hsame | ⟨n, data, -, -, hf, -, -⟩ := (exec_effect h).packet_cases
  · exact hsame
  · exact absurd (hs.symm.trans hf) nofun

/-- Settles O37: `sending` and the packet change in an accepted SUBMIT and a completing DRAIN only, and the first finds
`sending` clear. -/
theorem onePacketInFlight : Obligations.OnePacketInFlight := by
  refine ⟨fun i s t h => ⟨fun hf ht => ?_, fun hs hf => ?_, fun hne => ?_⟩, fun s t h => ?_⟩
  · obtain hsame | ⟨n, data, rfl, hn, -, hi, rfl⟩ | hdone := (exec_effect h).sending_cases
    · exact absurd (ht.symm.trans (hsame.trans hf)) nofun
    · exact ⟨n, data, rfl, rfl, length_succ hn, hi⟩
    · exact absurd (ht.symm.trans hdone.sending) nofun
  · obtain hsame | hacc | ⟨rfl, hc, rfl⟩ := (exec_effect h).sending_cases
    · exact absurd (hs.symm.trans (hsame.symm.trans hf)) nofun
    · exact absurd (hacc.sending.1.symm.trans hf) nofun
    · exact ⟨rfl, hc, by simp, by simp⟩
  · obtain ⟨hbuf, hlen⟩ | hacc := (exec_effect h).packet_cases
    · exact absurd hne (by simp [hbuf, hlen])
    · obtain ⟨hsend, hok⟩ := hacc.sending
      obtain ⟨n, data, hi, -, hf, -, -⟩ := hacc
      exact ⟨hf, hsend, hok, n, data, hi⟩
  · exact step_relates exec_keeps_packet_while_sending (fun _ _ => ⟨rfl, rfl⟩) (fun _ _ _ => ⟨rfl, rfl⟩) id h

/-- Settles O38: row by row, the operations that write the field. -/
theorem ownershipTable : Obligations.OwnershipTable := by
  intro i s t h
  have he := exec_effect h
  refine ⟨exec_keeps_framing_byte h, fun hne => ?_, fun hne => ?_, he.cursor_cases.resolve_left, fun hne => ?_,
    fun hne => ?_, fun hne => ?_, ?_⟩
  · obtain ⟨hbuf, hlen⟩ | ⟨n, data, rfl, -, hf, -, -⟩ := he.packet_cases
    · exact absurd hne (by simp [hbuf, hlen])
    · exact ⟨rfl, hf⟩
  · obtain ⟨n, data, rfl, -, hf, -, -⟩ | hdone := he.sending_cases.resolve_left hne
    · exact .inl ⟨rfl, hf⟩
    · rw [hdone.sending] at hne
      exact .inr ⟨hdone.1, by simpa using hne.symm⟩
  · obtain ⟨rfl, -⟩ | ⟨hoff, ⟨r, rfl⟩ | rfl | rfl⟩ := he.txIe_cases.resolve_left hne
    exacts [.inl rfl, .inl rfl, .inl rfl, .inr ⟨rfl, hoff⟩]
  · obtain ⟨hi, hb⟩ | hshift := he.txq_cases.resolve_left hne
    · obtain ⟨b, hi⟩ | hi := hi
      exacts [.inl ⟨⟨b, .inl hi⟩, hb⟩, .inl ⟨⟨0, .inr hi⟩, hb⟩]
    · exact .inr hshift
  · obtain ⟨hi, b, -, hline⟩ := he.line_cases.resolve_left hne
    exact ⟨hi, _, hline⟩
  · rintro rfl
    exact he.shift_frame

/-- An operation adds one byte to log and queue or none to the log, and the frame of the queue's head or nothing to the
line. -/
theorem exec_traces (h : exec i s = .next t) :
    (t.txLog = s.txLog ∨ ∃ b, t.txLog = s.txLog ++ [b] ∧ t.txq = s.txq ++ [b]) ∧
      (t.line = s.line ∨ ∃ b, s.txq = b :: t.txq ∧ t.line = s.line ++ manchByte Config.params (truthOf s) b) := by
  have he := exec_effect h
  refine ⟨he.txLog_cases.imp_right ?_, he.line_cases.imp_right And.right⟩
  rintro ⟨-, -, b, hq, hlog⟩
  exact ⟨b, hlog, hq⟩

theorem step_traces (h : step s = .next t) :
    (t.txLog = s.txLog ∨ ∃ b, t.txLog = s.txLog ++ [b] ∧ t.txq = s.txq ++ [b]) ∧
      (t.line = s.line ∨ ∃ b, s.txq = b :: t.txq ∧ t.line = s.line ++ manchByte Config.params (truthOf s) b) :=
  step_relates exec_traces (fun _ => ⟨.inl rfl, .inl rfl⟩) (fun _ _ => ⟨.inl rfl, .inl rfl⟩) id h

theorem step_txLog_prefix (h : step s = .next t) : s.txLog <+: t.txLog := by
  obtain hlog | ⟨b, hlog, -⟩ := (step_traces h).1 <;> rw [hlog]
  exact List.prefix_append _ _

theorem step_line_prefix (h : step s = .next t) : s.line <+: t.line := by
  obtain hline | ⟨b, -, hline⟩ := (step_traces h).2 <;> rw [hline]
  exact List.prefix_append _ _

/-- Settles O50: both traces are written by appending only, and a frame has 16 levels. -/
theorem tracesOnlyGrow : Obligations.TracesOnlyGrow := by
  intro s t h
  obtain ⟨hlog, hline⟩ := step_traces h
  refine ⟨hlog, hline.imp_right ?_, step_txLog_prefix h, step_line_prefix h⟩
  rintro ⟨b, hq, hline⟩
  exact ⟨b, _, hq, hline, manchByte_length _ _ _, rfl⟩

theorem exec_keeps_configuration (h : exec i s = .next t) :
    (s.conv ≠ none → t.conv = s.conv ∧ t.encTruth = s.encTruth) ∧
      (s.encLuten = true → t.encLuten = true) ∧ (s.encPeren = true → t.encPeren = true) ∧
      (s.txEn = true → t.txEn = true ∧ t.bitRate = s.bitRate) := by
  cases exec_effect h with
  | cfgenc _ hc => exact ⟨fun hn => absurd hc hn, fun _ => rfl, fun _ => rfl, fun hx => ⟨hx, rfl⟩⟩
  | txinit _ hx => exact ⟨fun _ => ⟨rfl, rfl⟩, id, id, fun hf => absurd (hx.symm.trans hf) nofun⟩
  | _ => simp

/-- Settles O51: CFGENC, the writer of the encoder's fields, finds `conv` none and sets both enables; TXINIT, the
writer of the rate, finds `tx_en` 0. -/
theorem configurationIsWrittenOnce : Obligations.ConfigurationIsWrittenOnce := fun _ _ h =>
  step_relates exec_keeps_configuration (fun _ => ⟨fun _ => ⟨rfl, rfl⟩, id, id, fun hx => ⟨hx, rfl⟩⟩)
    (fun _ _ => ⟨fun _ => ⟨rfl, rfl⟩, id, id, fun hx => ⟨hx, rfl⟩⟩) id h

/-- Settles O54: GUARD and a completing DRAIN are the writers of `idle_ticks`, and of the writers of `tx_ie` TXIEN alone
sets it, having met the guard. -/
theorem guardIntervalIsKept : Obligations.GuardIntervalIsKept := by
  refine fun i s t h => ⟨(exec_effect h).idleTicks_cases.resolve_left, fun hf ht => ?_⟩
  obtain hsame | hen | ⟨hoff, -⟩ := (exec_effect h).txIe_cases
  · exact absurd (ht.symm.trans (hsame.trans hf)) nofun
  · exact hen
  · exact absurd (ht.symm.trans hoff) nofun

/-! ### Frames -/

/-- Settles O57: each of the five operations is refused, recording a code, or has its one effect. -/
theorem controlOperationsFrame : Obligations.ControlOperationsFrame := by
  intro i s t h hi
  cases exec_effect h with
  | stops | cfgenc | txinit | txien | txidis | guard => simp
  | loadb | busy | accepted | load | complete | shift => simp at hi
  | nothing _ hm => obtain ⟨b, rfl⟩ | ⟨r, rfl⟩ | rfl | rfl | rfl := hi <;> cases hm

/-- Settles O58: LOADB writes queue, log and `pc`, SHIFT queue, line and `pc`, and a stop writes `status`. -/
theorem loadAndShiftFrame : Obligations.LoadAndShiftFrame := by
  intro i s t h hi
  obtain ⟨b, rfl⟩ | rfl := hi
  · cases exec_effect h with
    | stops | loadb => simp
    | nothing _ hi => cases hi
  · cases exec_effect h with
    | stops | nothing | shift => simp

/-- Settles O59: an accepted SUBMIT stores its payload at 1 .. n, a busy one writes `ok` and `pc`, a stop `status`. -/
theorem submitFrame : Obligations.SubmitFrame := by
  intro n data s t h
  cases exec_effect h with
  | stops => simp
  | busy => simp [exec_running h]
  | nothing _ hi => cases hi
  | accepted hd _ hs _ =>
    refine ⟨fun a ha => read_payload_outside hd ha, ?_, ?_, by simp⟩
    · rintro (ht | hstop)
      · exact absurd (hs.symm.trans ht) nofun
      · exact absurd (exec_running h) hstop
    · exact fun hstop => absurd (exec_running h) hstop

/-- Settles O60: the loading row writes queue, log, cursor and `pc`, the completing row cursor, enable, flag, ticks and
`pc`. -/
theorem drainFrame : Obligations.DrainFrame := by
  intro s t h
  cases exec_effect h with
  | stops | nothing => simp
  | load _ _ _ hc => simp [BitVec.ne_of_lt hc]
  | complete _ _ _ hc => simp [hc]

end Sys2Proof.Machine
end

section
/-! The transition table (`43_drain_state_machine.md` section 3), and the host protocol of the packet scheduler
(`44_packet_scheduler.md` R207 to R209). -/

namespace Sys2Proof.Machine

variable {i : Instr} {s t : State}

/-- Without a packet in flight the machine is Idle or Spurious. -/
theorem stateName_without_packet : stateName s = .idle ∨ stateName s = .spurious ↔ s.sending = false := by
  rw [stateName_idle, stateName_spurious]
  cases s.txIe <;> simp

/-- With a packet in flight the machine is Armed or Draining. -/
theorem stateName_with_packet : stateName s = .armed ∨ stateName s = .draining ↔ s.sending = true := by
  rw [stateName_armed, stateName_draining]
  cases s.txIe <;> simp

theorem txIe_of_idle_or_armed (h : stateName s = .idle ∨ stateName s = .armed) : s.txIe = false := by
  rw [stateName_idle, stateName_armed] at h
  exact h.elim And.right And.right

theorem StateInv.written_cell (h : StateInv s) (hs : s.sending = true) (hc : s.cursor < s.length) :
    ∃ b, s.buf.read s.cursor.toNat = some b :=
  Option.isSome_iff_exists.1 (h.packetWritten hs _ (byte_lt.1 hc))

theorem cfgenc_keeps_stateName {b : Byte} (h : exec (.cfgenc b) s = .next t) : stateName t = stateName s := by
  cases exec_effect h with
  | stops | nothing | cfgenc => rfl

/-- TXINIT writes `tx_ie` 0 where it was 0, the transmitter having been off. -/
theorem txinit_keeps_stateName {r : BitVec 32} (hinv : StateInv s) (h : exec (.txinit r) s = .next t) :
    stateName t = stateName s := by
  cases exec_effect h with
  | stops | nothing => rfl
  | txinit _ hx =>
    have hoff : s.txIe = false := by
      by_contra hi
      exact absurd (hx.symm.trans (hinv.enableInit (by simpa using hi))) nofun
    exact stateName_congr rfl hoff.symm

/-- Settles O36: a name gives `sending` and `tx_ie`, which select the row each operation answers by; the invariant
gives the cell a DRAIN loads, the guard ticks of a Draining machine, and `tx_ie` 0 before TXINIT. -/
theorem transitionTable : Obligations.TransitionTable := by
  intro s hinv hr
  refine ⟨fun n data hd hn => ⟨fun h => ?_, fun h => ?_, fun h => ?_⟩,
    fun hx => ⟨fun h => ?_, fun h hg => ?_, fun h hg => ?_, fun h => ?_, fun h => ?_, fun h => ?_, ?_,
      fun b hq => ⟨fun h => ?_, fun h => ?_⟩, fun hq => ?_⟩,
    fun h => irq_of_disabled (txIe_of_idle_or_armed h),
    fun hq => ⟨fun h hc => ?_, fun h hc => ?_, fun hc => ?_⟩,
    fun b t h => cfgenc_keeps_stateName h, fun r t h => txinit_keeps_stateName hinv h⟩
  · obtain ⟨hs, hi⟩ := stateName_idle.1 h
    exact ⟨_, submit_accepted hr hd hn hs hi, hr, stateName_armed.2 ⟨rfl, hi⟩, rfl⟩
  · exact ⟨_, submit_busy hr hd hn (stateName_with_packet.1 h), hr, rfl, rfl⟩
  · obtain ⟨hs, hi⟩ := stateName_spurious.1 h
    exact submit_while_enabled hr hd hn hs hi
  · have hs := stateName_without_packet.1 h
    exact ⟨_, txien_enables hr hx fun ht => absurd (hs.symm.trans ht) nofun, hr, stateName_spurious.2 ⟨hs, rfl⟩⟩
  · exact ⟨_, txien_enables hr hx fun _ => hg, hr, stateName_draining.2 ⟨(stateName_armed.1 h).1, rfl⟩⟩
  · exact txien_guard_violation hr hx (stateName_armed.1 h).1 hg
  · obtain ⟨hs, hi⟩ := stateName_draining.1 h
    exact ⟨_, txien_enables hr hx fun _ => hinv.guardWaited hs hi, hr, stateName_draining.2 ⟨hs, rfl⟩⟩
  · have hs := stateName_without_packet.1 h
    exact ⟨_, txidis_disables hr hx, hr, stateName_idle.2 ⟨hs, rfl⟩⟩
  · have hs := stateName_with_packet.1 h
    exact ⟨_, txidis_disables hr hx, hr, stateName_armed.2 ⟨hs, rfl⟩⟩
  · exact ⟨_, guard_waits hr hx, hr, rfl, rfl⟩
  · exact ⟨_, loadb_loads hr hx (stateName_without_packet.1 h) hq, hr, rfl, rfl⟩
  · exact loadb_while_sending hr hx (stateName_with_packet.1 h)
  · obtain ⟨b, rest, hq⟩ := List.exists_cons_of_ne_nil hq
    exact ⟨_, shift_sends hr hx hq, by simpa using hr, stateName_congr (by simp) (by simp)⟩
  · obtain ⟨hs, hi⟩ := stateName_draining.1 h
    obtain ⟨b, hb⟩ := hinv.written_cell hs hc
    exact ⟨_, drain_loads hr hq hc hs hb, by simpa using hr,
      stateName_draining.2 ⟨by simpa using hs, by simpa using hi⟩,
      by simpa using cursor_succ hc⟩
  · exact drain_stale hr hq hc (stateName_spurious.1 h).1
  · exact ⟨_, drain_completes hr hq hc, by simpa using hr, stateName_completePacket_passMarker s⟩

theorem protocolStep_of_next {h : HostPlan} {ph : HostPhase} (he : exec (h.operation ph) s = .next t) :
    protocolStep h ph s = .next (nextPhase t ph, t) := by
  simp only [protocolStep, he]

/-- Settles O55: an accepted SUBMIT found `tx_ie` 0 and a busy one clears `ok`, which `nextPhase` reads; and one GUARD
adds the whole guard length. -/
theorem schedulerAlwaysWaitsBeforeEnabling : Obligations.SchedulerAlwaysWaitsBeforeEnabling := by
  refine ⟨fun n data s t h ht => ?_, fun h s hr hx hs => ?_⟩
  · obtain ⟨-, -, ⟨-, rfl⟩ | ⟨-, hs, rfl⟩ | ⟨-, -, -, rfl⟩ | ⟨-, hs, hi, rfl⟩⟩ := execSubmit_cases h
    · cases ht
    · exact ⟨nofun, fun _ => ⟨hs, by simp [nextPhase]⟩⟩
    · cases ht
    · exact ⟨fun _ => ⟨hs, rfl, hi, by simp [nextPhase, hi]⟩, nofun⟩
  · have hguard := guard_waits hr hx
    have henable := txien_enables (s := (s.addIdle (guardTicks s.bitRate)).advance 1) hr hx fun _ => Nat.le_add_left _ _
    exact ⟨_, _, protocolStep_of_next (h := h) (ph := .wait) hguard,
      protocolStep_of_next (h := h) (ph := .enable) henable, hr, stateName_draining.2 ⟨hs, rfl⟩⟩

end Sys2Proof.Machine
end

section
/-! A drain of a packet (`43_drain_state_machine.md` R196 to R199). -/

namespace Sys2Proof.Machine

variable {s t u v : State} {a : Agent} {before : List Byte}

/-! ### Scripted: one DRAIN and one SHIFT a byte -/

theorem manchPacket_length (p : Params) (t : BitVec 4) (bs : List Byte) :
    (manchPacket p t bs).length = 16 * bs.length := by
  simp [manchPacket, List.length_flatMap, manchByte_length, Nat.mul_comm]

/-- The state after the packet's next byte has been loaded, and sent at once. -/
def afterPump (s : State) (b : Byte) : State :=
  (((s.txLoad b).setCursor (s.cursor + 1#8)).passMarker.shiftOut (manchByte Config.params (truthOf s) b) []).passMarker

/-- The next cell of the packet, when some are left. -/
theorem next_cell {b : Byte} {cs : List (Option Byte)} (h : (packetCells s).drop s.cursor.toNat = some b :: cs) :
    s.cursor < s.length ∧ s.buf.read s.cursor.toNat = some b ∧ (packetCells s).drop (s.cursor.toNat + 1) = cs := by
  have hget : (packetCells s)[s.cursor.toNat]? = some (some b) := by
    rw [← List.head?_drop, h, List.head?_cons]
  have hlt : s.cursor.toNat < s.length.toNat := by
    simpa using (List.getElem?_eq_some_iff.1 hget).1
  refine ⟨byte_lt.2 hlt, ?_, ?_⟩
  · rw [packetCells_get hlt] at hget
    exact Option.some.inj hget
  · rw [← List.tail_drop, h, List.tail_cons]

/-- DRAIN and SHIFT from Draining with an empty transmitter. -/
theorem execAll_pump {b : Byte} (hinv : StateInv s) (hr : s.status = .running) (hname : stateName s = .draining)
    (hq : s.txq = []) (hc : s.cursor < s.length) (hb : s.buf.read s.cursor.toNat = some b) (is : List Instr) :
    execAll (.drain :: .shift :: is) s = execAll is (afterPump s b) := by
  obtain ⟨hs, hi⟩ := stateName_draining.1 hname
  have hx : s.txEn = true := hinv.enableInit hi
  have hirq : irq Config.params s = true := irq_eq_true.2 ⟨hi, dre_eq_true.1 (dre_of_empty hx hq)⟩
  have hload := drain_loads hr hirq hc hs hb
  have htruth : truthOf ((s.txLoad b).setCursor (s.cursor + 1#8)).passMarker = truthOf s := truthOf_congr (by simp)
  have hshift := shift_sends (s := ((s.txLoad b).setCursor (s.cursor + 1#8)).passMarker) (b := b) (rest := [])
    (by simpa using hr) (by simpa using hx) (by simp [hq])
  rw [execAll_cons hload, execAll_cons hshift, htruth, afterPump]

theorem stateInv_afterPump (hinv : StateInv s) (hs : s.sending = true) (hc : s.cursor < s.length) (b : Byte) :
    StateInv (afterPump s b) :=
  ((((hinv.txLoad b).setCursor hs (succ_cursor_le hc)).passMarker).shiftOut _ _).passMarker

/-- Settles O44: by induction on the bytes left, each loaded and sent by one DRAIN and one SHIFT; the last DRAIN finds
the cursor at the end. -/
theorem drainOfAPacketCompletes : Obligations.DrainOfAPacketCompletes := by
  intro s bs
  induction bs generalizing s with
  | nil =>
    intro hinv hr hname hq hcells
    obtain ⟨hs, hi⟩ := stateName_draining.1 hname
    have hle : s.length.toNat ≤ s.cursor.toNat := by simpa using hcells
    have hc : s.cursor = s.length := BitVec.le_antisymm hinv.cursorLe hle
    have hirq : irq Config.params s = true :=
      irq_eq_true.2 ⟨hi, dre_eq_true.1 (dre_of_empty (hinv.enableInit hi) hq)⟩
    refine ⟨_, execAll_cons (drain_completes hr hirq hc), by simpa using hr, stateName_completePacket_passMarker s, ?_⟩
    simp [hq]
  | cons b bs ih =>
    intro hinv hr hname hq hcells
    obtain ⟨hs, hi⟩ := stateName_draining.1 hname
    obtain ⟨hc, hb, hrest⟩ := next_cell hcells
    have hrest' : (packetCells (afterPump s b)).drop (afterPump s b).cursor.toNat = bs.map some := by
      rw [packetCells_congr (t := afterPump s b) (s := s) (by simp [afterPump]) (by simp [afterPump]), ← hrest]
      simp [afterPump, cursor_succ hc]
    obtain ⟨t, hrun, htr, hidle, hcur, htick, htq, hlog, hline, -, hlen, hbuf⟩ :=
      ih (afterPump s b) (stateInv_afterPump hinv hs hc b) (by simpa [afterPump] using hr)
        (stateName_draining.2 (by simp [afterPump, hs, hi])) (by simp [afterPump]) hrest'
    have htruth : truthOf (afterPump s b) = truthOf s := truthOf_congr (by simp [afterPump])
    refine ⟨t, (execAll_pump hinv hr hname hq hc hb _).trans hrun, htr, hidle, hcur, htick, htq, ?_, ?_,
      manchPacket_length _ _ _, ?_, ?_⟩
    · simp [hlog, afterPump]
    · rw [hline, htruth, ← List.singleton_append, manchPacket_append, manchPacket_singleton, ← List.append_assoc]
      simp [afterPump]
    · simp [hlen, afterPump]
    · simp [hbuf, afterPump]

/-! ### Free: the work an event uses up -/

/-- What DRAIN and SHIFT have left to do: the drain in progress with its completion, and the bytes to shift out. -/
def eventWork (s : State) : Nat := if s.txIe then drainWork s + 1 else s.txq.length

theorem eventWork_of_enabled (h : s.txIe = true) : eventWork s = drainWork s + 1 := by simp [eventWork, h]

theorem eventWork_of_disabled (h : s.txIe = false) : eventWork s = s.txq.length := by simp [eventWork, h]

/-- The work of a free run is that of its events and 512 for each byte of the stream. -/
theorem freeWork_eq (s : State) : freeWork s = 512 * (s.stream.length - s.pc) + eventWork s := by
  unfold freeWork
  cases hi : s.txIe with
  | false => simp [eventWork_of_disabled hi]
  | true =>
    rw [eventWork_of_enabled hi, drainWork, if_pos rfl]
    omega

theorem txq_length_le_eventWork (s : State) : s.txq.length ≤ eventWork s := by
  cases hi : s.txIe with
  | false => rw [eventWork_of_disabled hi]
  | true =>
    rw [eventWork_of_enabled hi, drainWork]
    omega

/-- An enabled DRAIN that does not fault loads a byte or completes the packet. -/
theorem exec_drain_of_irq (h : exec .drain s = .next t) (hq : irq Config.params s = true) (ht : t.status = .running) :
    (s.cursor < s.length ∧ s.sending = true ∧ ∃ b, s.buf.read s.cursor.toNat = some b ∧
        t = ((s.txLoad b).setCursor (s.cursor + 1#8)).passMarker) ∨
      (s.cursor = s.length ∧ t = s.completePacket.passMarker) := by
  obtain ⟨hn, -⟩ | ⟨-, hd⟩ := (drainWith_cases h).2
  · exact absurd (hq.symm.trans hn) nofun
  · obtain ⟨hc, ⟨-, rfl⟩ | ⟨-, -, rfl⟩ | ⟨hs, b, hb, rfl⟩⟩ | ⟨hc, rfl⟩ | ⟨-, rfl⟩ := drainEvent_cases hd
    · cases ht
    · cases ht
    · exact .inl ⟨hc, hs, b, hb, rfl⟩
    · exact .inr ⟨hc, rfl⟩
    · cases ht

/-- An enabled SHIFT sends the head of the queue. -/
theorem exec_shift_of_enabled (h : exec .shift s = .next t) (he : shiftEnabled s = true) :
    ∃ b rest, s.txq = b :: rest ∧ t = (s.shiftOut (manchByte Config.params (truthOf s) b) rest).passMarker := by
  obtain ⟨hn, -⟩ | ⟨b, rest, -, hq, ht⟩ := (shiftWith_cases h).2
  · exact absurd (he.symm.trans hn) nofun
  · exact ⟨b, rest, hq, ht⟩

theorem eventWork_load {b : Byte} (hi : s.txIe = true) (hc : s.cursor < s.length) :
    eventWork ((s.txLoad b).setCursor (s.cursor + 1#8)).passMarker < eventWork s := by
  have hlt := byte_lt.1 hc
  rw [eventWork_of_enabled (by simpa using hi), eventWork_of_enabled hi]
  simp only [drainWork, State.passMarker_length, State.passMarker_cursor, State.passMarker_txq, State.setCursor_length,
    State.setCursor_cursor, State.setCursor_txq, State.txLoad_length, State.txLoad_txq, cursor_succ hc,
    List.length_append, List.length_singleton]
  omega

theorem eventWork_complete (hi : s.txIe = true) : eventWork s.completePacket.passMarker < eventWork s := by
  rw [eventWork_of_disabled (by simp), eventWork_of_enabled hi, drainWork]
  simp only [State.passMarker_txq, State.completePacket_txq]
  omega

theorem eventWork_shift {b : Byte} {rest : List Byte} (hq : s.txq = b :: rest) (levels : List Level) :
    eventWork (s.shiftOut levels rest).passMarker < eventWork s := by
  simp only [eventWork, drainWork, State.passMarker_txIe, State.passMarker_length, State.passMarker_cursor,
    State.passMarker_txq, State.shiftOut_txIe, State.shiftOut_length, State.shiftOut_cursor, State.shiftOut_txq, hq,
    List.length_cons]
  split <;> omega

/-- An enabled event that does not stop the machine uses some of the work up. -/
theorem agentStep_lessens_eventWork (ha : a ≠ .host) (he : agentEnabled Config.params s a = true)
    (h : agentStep a s = .next t) (ht : t.status = .running) : eventWork t < eventWork s := by
  cases a with
  | host => exact absurd rfl ha
  | drain =>
    have hi : s.txIe = true := (irq_eq_true.1 he).1
    obtain ⟨hc, -, b, -, rfl⟩ | ⟨-, rfl⟩ := exec_drain_of_irq h he ht
    exacts [eventWork_load hi hc, eventWork_complete hi]
  | shifter =>
    obtain ⟨b, rest, hq, rfl⟩ := exec_shift_of_enabled h he
    exact eventWork_shift hq _

/-- With work left and the transmitter on, one of the two events is enabled. -/
theorem exists_event_enabled (hx : s.txEn = true) (hw : 0 < eventWork s) :
    irq Config.params s = true ∨ shiftEnabled s = true := by
  by_cases hq : s.txq = []
  · have hi : s.txIe = true := by
      by_contra hoff
      simp [eventWork_of_disabled (by simpa using hoff), hq] at hw
    exact .inl (irq_eq_true.2 ⟨hi, dre_eq_true.1 (dre_of_empty hx hq)⟩)
  · exact .inr (shiftEnabled_eq_true.2 ⟨hx, hq⟩)

/-- Under the invariant an enabled event of an Idle or Draining machine succeeds and leaves it Idle or Draining. -/
theorem exists_event_step (hinv : StateInv s) (hr : s.status = .running) (hname : s.txIe = s.sending) (ha : a ≠ .host)
    (he : agentEnabled Config.params s a = true) :
    ∃ t, agentStep a s = .next t ∧ t.status = .running ∧ t.txIe = t.sending := by
  cases a with
  | host => exact absurd rfl ha
  | drain =>
    have hs : s.sending = true := hname ▸ (irq_eq_true.1 he).1
    obtain hc | hc := Nat.lt_or_eq_of_le (byte_le.1 hinv.cursorLe)
    · obtain ⟨b, hb⟩ := hinv.written_cell hs (byte_lt.2 hc)
      exact ⟨_, drain_loads hr he (byte_lt.2 hc) hs hb, by simpa using hr, by simpa using hname⟩
    · exact ⟨_, drain_completes hr he (BitVec.eq_of_toNat_eq hc), by simpa using hr, by simp⟩
  | shifter =>
    obtain ⟨hx, hq⟩ := shiftEnabled_eq_true.1 he
    obtain ⟨b, rest, hq⟩ := List.exists_cons_of_ne_nil hq
    exact ⟨_, shift_sends hr hx hq, by simpa using hr, by simpa using hname⟩

/-- Settles O49: with an empty queue DRAIN is enabled and otherwise SHIFT; the invariant keeps DRAIN from its faults;
and each uses some of the work up. -/
theorem drainingMakesProgress : Obligations.DrainingMakesProgress := by
  intro s hinv hr hname
  obtain ⟨hs, hi⟩ := stateName_draining.1 hname
  have hwork : eventWork s = drainWork s + 1 := eventWork_of_enabled hi
  refine ⟨exists_event_enabled (hinv.enableInit hi) (by omega), fun a ha he => ?_⟩
  obtain ⟨t, hstep, ht, hname'⟩ := exists_event_step hinv hr (hi.trans hs.symm) ha he
  have hless := agentStep_lessens_eventWork ha he hstep ht
  refine ⟨t, hstep, ht, ?_⟩
  cases hi' : t.txIe with
  | false => exact .inl (stateName_idle.2 ⟨hname' ▸ hi', hi'⟩)
  | true =>
    rw [eventWork_of_enabled hi', hwork] at hless
    exact .inr ⟨stateName_draining.2 ⟨hname' ▸ hi', hi'⟩, Nat.lt_of_succ_lt_succ hless⟩

/-! ### Free: every fair schedule -/

/-- What holds all along a free run of drain and shifter turns from `s`, where a packet was in flight that had been
loaded from the log `before` on. -/
structure DrainRun (before : List Byte) (s u : State) : Prop where
  inv : StateInv u
  running : u.status = .running
  free : u.mode = .free
  txOn : u.txEn = true
  table : u.encTruth = s.encTruth
  named : u.txIe = u.sending
  encoded : LineEncodesLog Config.params u
  packet : PacketGoesOn before s u

/-- An event is an operation, so what its effects keep it keeps. -/
theorem agentStep_event (ha : a ≠ .host) (h : agentStep a s = .next t) :
    ∃ i, i.isMarker = true ∧ exec i s = .next t := by
  cases a with
  | host => exact absurd rfl ha
  | drain => exact ⟨.drain, rfl, h⟩
  | shifter => exact ⟨.shift, rfl, h⟩

theorem Effect.event_keeps_table {i : Instr} (h : Effect i s t) (hi : i.isMarker = true) : t.encTruth = s.encTruth := by
  cases h with
  | stops | nothing | load | complete | shift => simp
  | cfgenc | txinit | txien | txidis | loadb | busy | accepted | guard => cases hi

theorem PacketGoesOn.trans (h : PacketGoesOn before s u) (hv : PacketGoesOn before u v) : PacketGoesOn before s v := by
  obtain ⟨hcells, -⟩ := h
  obtain ⟨hcells', hgo⟩ := hv
  exact ⟨hcells'.trans hcells, hcells ▸ hgo⟩

/-- A SHIFT leaves a packet that is complete as it is. -/
theorem PacketGoesOn.of_idle_shift (h : PacketGoesOn before s u) (hs : u.sending = false)
    (hv : exec .shift u = .next v) : PacketGoesOn before s v := by
  obtain ⟨hcells, ⟨ht, -⟩ | ⟨-, hlog⟩⟩ := h
  · exact absurd (hs.symm.trans ht) nofun
  · have hframe := (exec_effect hv).shift_frame
    rw [hframe]
    exact ⟨hcells, .inr ⟨hs, hlog⟩⟩

theorem DrainRun.next (h : DrainRun before s u) (ha : a ≠ .host) (he : agentEnabled Config.params u a = true) :
    ∃ v, agentStep a u = .next v ∧ DrainRun before s v ∧ eventWork v < eventWork u := by
  obtain ⟨v, hstep, hrun, hnamed⟩ := exists_event_step h.inv h.running h.named ha he
  obtain ⟨i, hi, hexec⟩ := agentStep_event ha hstep
  have heff := exec_effect hexec
  refine ⟨v, hstep, ⟨heff.keeps_inv h.inv, hrun, heff.keeps_program.2.1.trans h.free,
    ((exec_keeps_configuration hexec).2.2.2 h.txOn).1, (heff.event_keeps_table hi).trans h.table, hnamed,
    heff.keeps_lineEncodesLog h.encoded ?_, ?_⟩, agentStep_lessens_eventWork ha he hstep hrun⟩
  · rintro ⟨b, rfl⟩
    cases hi
  · cases hs : u.sending with
    | true =>
      obtain ⟨-, ⟨-, hlog⟩ | ⟨hf, -⟩⟩ := h.packet
      · exact h.packet.trans (agentStep_packetGoesOn hs hlog hstep hrun)
      · exact absurd (hs.symm.trans hf) nofun
    | false =>
      cases a with
      | host => exact absurd rfl ha
      | drain => exact absurd ((irq_of_disabled (h.named.trans hs)).symm.trans he) nofun
      | shifter => exact h.packet.of_idle_shift hs hstep

/-- The turn of an agent that is not enabled passes. -/
theorem DrainRun.wait (h : DrainRun before s u) (ha : a ≠ .host) (he : agentEnabled Config.params u a = false) :
    agentStep a u = .next u := by
  cases a with
  | host => exact absurd rfl ha
  | drain => exact drain_waits h.running h.free he
  | shifter => exact shift_idles h.running h.free he

theorem agentRun_cons {as : List Agent} (h : agentStep a s = .next t) : agentRun (a :: as) s = agentRun as t := by
  simp only [agentRun, h]

theorem agentRun_append {as bs : List Agent} (h : agentRun as s = .next t) :
    agentRun (as ++ bs) s = agentRun bs t := by
  induction as generalizing s with
  | nil =>
    cases h
    rfl
  | cons a as ih =>
    simp only [List.cons_append, agentRun] at h ⊢
    split at h
    · exact ih h
    · cases h
    · cases h

/-- A round of turns adds no work, and uses some up if one of its agents is enabled when it begins. -/
theorem DrainRun.round (h : DrainRun before s u) {r : List Agent} (hr : Agent.host ∉ r) :
    ∃ v, agentRun r u = .next v ∧ DrainRun before s v ∧ eventWork v ≤ eventWork u ∧
      ((∃ a ∈ r, agentEnabled Config.params u a = true) → eventWork v < eventWork u) := by
  induction r generalizing u with
  | nil => exact ⟨u, rfl, h, le_rfl, by simp⟩
  | cons a r ih =>
    obtain ⟨ha, hr⟩ : a ≠ .host ∧ Agent.host ∉ r := by simpa [eq_comm] using hr
    cases he : agentEnabled Config.params u a with
    | true =>
      obtain ⟨w, hstep, hw, hless⟩ := h.next ha he
      obtain ⟨v, hrun, hv, hle, -⟩ := ih hw hr
      exact ⟨v, (agentRun_cons hstep).trans hrun, hv, hle.trans hless.le, fun _ => hle.trans_lt hless⟩
    | false =>
      obtain ⟨v, hrun, hv, hle, hless⟩ := ih h hr
      refine ⟨v, (agentRun_cons (h.wait ha he)).trans hrun, hv, hle, ?_⟩
      rintro ⟨b, hb, hen⟩
      obtain rfl | hb := List.mem_cons.1 hb
      · exact absurd (he.symm.trans hen) nofun
      · exact hless ⟨b, hb, hen⟩

/-- As many fair rounds as there is work use all of it up. -/
theorem DrainRun.rounds (h : DrainRun before s u) {rounds : List (List Agent)}
    (hfair : ∀ r ∈ rounds, Agent.drain ∈ r ∧ Agent.shifter ∈ r ∧ Agent.host ∉ r)
    (hlen : eventWork u ≤ rounds.length) :
    ∃ v, agentRun rounds.flatten u = .next v ∧ DrainRun before s v ∧ eventWork v = 0 := by
  induction rounds generalizing u with
  | nil => exact ⟨u, rfl, h, Nat.le_zero.1 hlen⟩
  | cons r rounds ih =>
    obtain ⟨⟨hd, hs, hh⟩, hfair⟩ := List.forall_mem_cons.1 hfair
    obtain ⟨w, hrun, hw, hle, hless⟩ := h.round hh
    have hwork : eventWork w ≤ rounds.length := by
      obtain hzero | hpos := Nat.eq_zero_or_pos (eventWork u)
      · omega
      · have hlt := hless <| by
          obtain hirq | hshift := exists_event_enabled h.txOn hpos
          exacts [⟨.drain, hd, hirq⟩, ⟨.shifter, hs, hshift⟩]
        simp only [List.length_cons] at hlen
        omega
    obtain ⟨v, hrun', hv, hzero⟩ := ih hw hfair hwork
    exact ⟨v, by rw [List.flatten_cons, agentRun_append hrun, hrun'], hv, hzero⟩

/-- Settles O45: a fair round uses up some of the work there is, and with none left the packet is complete and the queue
empty. -/
theorem everyFairScheduleDrains : Obligations.EveryFairScheduleDrains := by
  intro s before rounds hinv hr hm hname hlog hline hfair hlen
  obtain ⟨hs, hi⟩ := stateName_draining.1 hname
  have hstart : DrainRun before s s :=
    ⟨hinv, hr, hm, hinv.enableInit hi, rfl, hi.trans hs.symm, hline, rfl, .inl ⟨hs, hlog⟩⟩
  obtain ⟨t, hrun, ht, hzero⟩ := hstart.rounds hfair (by rw [eventWork_of_enabled hi]; exact hlen)
  have hoff : t.txIe = false := by
    by_contra hon
    simp [eventWork_of_enabled (by simpa using hon)] at hzero
  have hq : t.txq = [] := by simpa [eventWork_of_disabled hoff] using hzero
  have hidle : t.sending = false := ht.named.symm.trans hoff
  obtain ⟨-, ⟨hon, -⟩ | ⟨-, hlog'⟩⟩ := ht.packet
  · exact absurd (hidle.symm.trans hon) nofun
  · exact ⟨t, hrun, ht.running, stateName_idle.2 ⟨hidle, hoff⟩, ht.inv.idleCursor hidle, hq, hlog',
      truthOf_congr ht.table ▸ ht.encoded.line_of_empty hq⟩

end Sys2Proof.Machine
end

section
/-! Free runs end, and what they have done then (`41_serial_transmitter.md` R148, `43_drain_state_machine.md` R199,
`70_reset_and_hazards.md` R283, R284). -/

namespace Sys2Proof

theorem Instr.size_pos (i : Instr) : 0 < i.size := by
  cases i with
  | submit n data => exact Nat.lt_of_lt_of_le Nat.zero_lt_two (Nat.le_add_right _ _)
  | _ => exact Nat.succ_pos _

theorem decode_ne_endOfStream {bs : List Byte} (h : bs ≠ []) : decode bs ≠ .error .endOfStream := by
  obtain ⟨b, rest, rfl⟩ := List.exists_cons_of_ne_nil h
  simp only [decode]
  split
  · simp
  · split <;> simp

end Sys2Proof

namespace Sys2Proof.Machine

variable {s t : State} {a : Agent} {i : Instr}

/-! ### The work a step uses up -/

/-- The events a host operation gives rise to are fewer than 512. -/
theorem Effect.eventWork_le (h : Effect i s t) (hi : i.isMarker = false) : eventWork t ≤ eventWork s + 511 := by
  cases h with
  | stops | cfgenc | busy | guard => exact Nat.le_add_right (eventWork s) _
  | nothing _ hm => exact absurd (hi.symm.trans hm) nofun
  | txinit | txidis =>
    rw [eventWork_of_disabled (by simp)]
    exact (txq_length_le_eventWork s).trans (Nat.le_add_right _ _)
  | txien =>
    have hq := txq_length_le_eventWork s
    have hlen := s.length.isLt
    rw [eventWork_of_enabled (by simp), drainWork]
    simp only [State.advance_length, State.advance_cursor, State.advance_txq, State.setTxIe_length,
      State.setTxIe_cursor, State.setTxIe_txq]
    omega
  | loadb =>
    simp only [eventWork, drainWork, State.advance_txIe, State.advance_length, State.advance_cursor, State.advance_txq,
      State.txLoad_txIe, State.txLoad_length, State.txLoad_cursor, State.txLoad_txq, List.length_append,
      List.length_singleton]
    split <;> omega
  | accepted _ _ _ hoff =>
    rw [eventWork_of_disabled (by simpa using hoff), eventWork_of_disabled hoff]
    exact Nat.le_add_right _ _
  | load | complete | shift => cases hi

/-- The host's step takes a byte at least from the stream. -/
theorem host_lessens_freeWork (hm : s.mode = .free) (hpc : s.pc < s.stream.length) (h : agentStep .host s = .next t)
    (ht : t.status = .running) : freeWork t < freeWork s := by
  obtain ⟨hr, hhost⟩ := ifRunning_next.1 h
  obtain ⟨i, -, -, ⟨hnot, he⟩ | ⟨-, -, rfl⟩⟩ | ⟨-, rfl⟩ | ⟨-, rfl⟩ := hostStep_cases hhost
  · have hi : i.isMarker = false := by simpa [hm] using hnot
    have hwork := (exec_effect he).eventWork_le hi
    have hstream := (exec_effect he).keeps_program.1
    have hsize := i.size_pos
    obtain ⟨hstop, -⟩ | ⟨-, -, hpc'⟩ | ⟨-, -, hmark, -⟩ := (exec_effect he).pc_cases hr
    · exact absurd ht hstop
    · rw [freeWork_eq, freeWork_eq, hstream, hpc']
      omega
    · exact absurd (hi.symm.trans hmark) nofun
  · have hwork : eventWork (s.advance 1) = eventWork s := rfl
    rw [freeWork_eq, freeWork_eq, hwork, State.advance_stream, State.advance_pc]
    omega
  · cases ht
  · cases ht

theorem event_lessens_freeWork (hm : s.mode = .free) (ha : a ≠ .host) (he : agentEnabled Config.params s a = true)
    (h : agentStep a s = .next t) (ht : t.status = .running) : freeWork t < freeWork s := by
  have hwork := agentStep_lessens_eventWork ha he h ht
  obtain ⟨i, hi, hexec⟩ := agentStep_event ha h
  have hstream := (exec_effect hexec).keeps_program.1
  obtain ⟨hstop, -⟩ | ⟨-, hplace, -⟩ | ⟨-, -, -, hpc⟩ := (exec_effect hexec).pc_cases (exec_running hexec)
  · exact absurd ht hstop
  · simp [hm, hi] at hplace
  · rw [freeWork_eq, freeWork_eq, hstream, hpc]
    omega

theorem step_lessens_freeWork (hm : s.mode = .free) (h : step s = .next t) (ht : t.status = .running) :
    freeWork t < freeWork s := by
  obtain ⟨-, ⟨hs, -⟩ | ⟨-, a, -, he, ha⟩⟩ := step_cases h
  · exact absurd (hm.symm.trans hs) nofun
  · rw [← freeWork_nextTurn s]
    cases a with
    | host => exact host_lessens_freeWork (s := s.nextTurn) hm (by simpa [agentEnabled] using he) ha ht
    | drain => exact event_lessens_freeWork (s := s.nextTurn) (a := .drain) hm nofun he ha ht
    | shifter => exact event_lessens_freeWork (s := s.nextTurn) (a := .shifter) hm nofun he ha ht

theorem freeWork_pos (he : agentEnabled Config.params s a = true) : 0 < freeWork s := by
  rw [freeWork_eq]
  cases a with
  | host =>
    have hpc : s.pc < s.stream.length := by simpa [agentEnabled] using he
    omega
  | drain =>
    rw [eventWork_of_enabled (irq_eq_true.1 he).1]
    omega
  | shifter =>
    have hq := List.length_pos_of_ne_nil (shiftEnabled_eq_true.1 he).2
    have hle := txq_length_le_eventWork s
    omega

/-! ### An enabled agent has a step -/

theorem exists_hostStep (hr : s.status = .running) (hpc : s.pc < s.stream.length) : ∃ t, hostStep s = .next t := by
  unfold hostStep
  split
  · rename_i r hf
    have hw : r.1.WellFormed = true := (decodedBytesAreTheEncoding _ r.2 r.1 hf).1
    cases hm : s.mode with
    | scripted => exact (hostCommand_of_scripted (i := r.1) hm) ▸ exec_answers hr hw
    | free =>
      cases hi : r.1.isMarker with
      | true => exact ⟨_, hostCommand_of_marker hm hi⟩
      | false => exact (hostCommand_of_operation hm hi) ▸ exec_answers hr hw
  · rename_i hf
    exact absurd hf (decode_ne_endOfStream (by simpa using hpc))
  · exact ⟨_, rfl⟩
  · exact ⟨_, rfl⟩

theorem exists_agentStep (hr : s.status = .running) (he : agentEnabled Config.params s a = true) :
    ∃ t, agentStep a s = .next t := by
  cases a with
  | host => exact (agentStep_host hr) ▸ exists_hostStep hr (by simpa [agentEnabled] using he)
  | drain => exact exec_answers (i := .drain) hr rfl
  | shifter => exact exec_answers (i := .shift) hr rfl

theorem exists_step (hr : s.status = .running) (hm : s.mode = .free) (he : agentEnabled Config.params s a = true) :
    ∃ t, step s = .next t := by
  obtain ⟨b, hsched, hb⟩ := exists_scheduled he
  rw [step_of_scheduled hr hm hsched]
  exact exists_agentStep (s := s.nextTurn) hr hb

/-! ### Runs -/

/-- A free run on which `P` is kept goes on, an agent being enabled, until `Q` holds or the machine is stopped, and this
within the work there is. -/
theorem freeRun_reaches {P Q : State → Prop}
    (hgo : ∀ {u}, u.mode = .free → u.status = .running → P u → ¬Q u → ∃ a, agentEnabled Config.params u a = true)
    (hkeep : ∀ {u v}, u.mode = .free → P u → ¬Q u → step u = .next v → P v)
    (hm : s.mode = .free) (hr : s.status = .running) (hs : P s) :
    ∃ n ≤ freeWork s, ∃ t, StepsTo n s t ∧ ((t.status = .running ∧ t.mode = .free ∧ Q t) ∨ t.status ≠ .running) := by
  induction hw : freeWork s using Nat.strong_induction_on generalizing s with
  | _ w ih =>
    subst hw
    by_cases hq : Q s
    · exact ⟨0, Nat.zero_le _, s, rfl, .inl ⟨hr, hm, hq⟩⟩
    · obtain ⟨a, he⟩ := hgo hm hr hs hq
      obtain ⟨u, hstep⟩ := exists_step hr hm he
      by_cases hu : u.status = .running
      · have hless := step_lessens_freeWork hm hstep hu
        have hmode : u.mode = .free := (streamIsImmutable s u hstep).2.1.trans hm
        obtain ⟨n, hn, t, hrun, ht⟩ := ih _ hless hmode hu (hkeep hm hs hq hstep) rfl
        exact ⟨n + 1, Nat.succ_le_of_lt (hn.trans_lt hless), t, ⟨u, hstep, hrun⟩, ht⟩
      · exact ⟨1, freeWork_pos he, u, ⟨u, hstep, rfl⟩, .inr hu⟩

/-- A free run ends quiescent or stopped. -/
theorem freeRun_ends (hm : s.mode = .free) (hr : s.status = .running) :
    ∃ n ≤ freeWork s, ∃ t, StepsTo n s t ∧
      ((t.status = .running ∧ t.mode = .free ∧ Quiescent Config.params t) ∨ t.status ≠ .running) := by
  refine freeRun_reaches (P := fun _ => True) (fun {u} _ _ _ hq => ?_) (fun _ _ _ _ => trivial) hm hr trivial
  by_contra hnone
  exact hq (quiescent_iff.2 fun a => by simpa using fun he => hnone ⟨a, he⟩)

/-- Settles O46: each running step uses up work, an enabled agent has a step, and with none enabled the run is over. -/
theorem everyFreeRunEnds : Obligations.EveryFreeRunEnds := by
  refine ⟨fun s t hm h ht => step_lessens_freeWork hm h ht, fun s hm hr => ?_⟩
  obtain ⟨n, hn, t, hrun, ⟨ht, hfree, hq⟩ | hstop⟩ := freeRun_ends hm hr
  · exact ⟨n, hn, t, hrun, .inl ⟨ht, hq, step_of_quiescent ht hfree hq⟩⟩
  · exact ⟨n, hn, t, hrun, .inr hstop⟩

/-- A SHIFT stays enabled under every operation but SHIFT itself: the queue may grow, and `tx_en` stays 1. -/
theorem exec_keeps_shiftEnabled (h : exec i s = .next t) (hi : i ≠ .shift) (he : shiftEnabled s = true) :
    shiftEnabled t = true := by
  obtain ⟨hx, hq⟩ := shiftEnabled_eq_true.1 he
  refine shiftEnabled_eq_true.2 ⟨((exec_keeps_configuration h).2.2.2 hx).1, ?_⟩
  obtain hsame | ⟨-, b, hb⟩ | ⟨rfl, -⟩ := (exec_effect h).txq_cases
  · exact hsame ▸ hq
  · simp [hb]
  · exact absurd rfl hi

theorem agentStep_keeps_shiftEnabled (ha : a ≠ .shifter) (hm : s.mode = .free) (he : shiftEnabled s = true)
    (h : agentStep a s = .next t) : shiftEnabled t = true := by
  cases a with
  | shifter => exact absurd rfl ha
  | drain => exact exec_keeps_shiftEnabled (i := .drain) h nofun he
  | host =>
    obtain ⟨i, -, -, ⟨hnot, hi⟩ | ⟨-, -, rfl⟩⟩ | ⟨-, rfl⟩ | ⟨-, rfl⟩ := hostStep_cases (ifRunning_next.1 h).2
    · refine exec_keeps_shiftEnabled hi ?_ he
      rintro rfl
      exact hnot ⟨hm, rfl⟩
    all_goals exact he

/-- Until the shifter is scheduled a step keeps SHIFT enabled. -/
theorem step_keeps_shiftEnabled (hm : s.mode = .free) (he : shiftEnabled s = true)
    (hsched : ¬scheduled s = some .shifter) (h : step s = .next t) : shiftEnabled t = true := by
  obtain ⟨-, ⟨hs, -⟩ | ⟨-, a, ha, hstep⟩⟩ := step_agent h
  · exact absurd (hm.symm.trans hs) nofun
  · refine agentStep_keeps_shiftEnabled (s := s.nextTurn) ?_ hm he hstep
    rintro rfl
    exact hsched ha

/-- Settles O47: at the end of a run no event is enabled; and SHIFT stays enabled, so that the run cannot end, until the
shifter is scheduled. -/
theorem enabledEventsHappen : Obligations.EnabledEventsHappen := by
  refine ⟨fun s a _ hm hr _ => ?_, fun a s t ha hm he h => agentStep_keeps_shiftEnabled ha hm he h,
    fun s hm hr he => ?_⟩
  · obtain ⟨n, hn, u, hrun, ⟨-, -, hq⟩ | hstop⟩ := freeRun_ends hm hr
    · exact ⟨n, hn, u, hrun, .inr (.inl (quiescent_iff.1 hq a))⟩
    · exact ⟨n, hn, u, hrun, .inr (.inr hstop)⟩
  · obtain ⟨n, hn, u, hrun, ⟨hu, hfree, hsched⟩ | hstop⟩ :=
      freeRun_reaches (P := fun u => shiftEnabled u = true) (Q := fun u => scheduled u = some .shifter)
        (fun _ _ hp _ => ⟨.shifter, hp⟩) step_keeps_shiftEnabled hm hr he
    · exact ⟨n, hn, u, hrun, .inl ⟨hu, hsched, step_of_scheduled hu hfree hsched⟩⟩
    · exact ⟨n, hn, u, hrun, .inr hstop⟩

/-- A quiescent machine has nothing left to shift. -/
theorem txq_of_quiescent {p : Params} (hconf : ConfigInv p s) (hq : Quiescent p s) : s.txq = [] := by
  obtain hx | hq := shiftEnabled_eq_false.1 (quiescent_iff.1 hq .shifter)
  · exact (hconf.quiet hx).1
  · exact hq

/-- Settles O48: the run keeps the configuration invariant and the relation of the line to the log, which grows, and
it ends with an empty transmitter. -/
theorem everyLoadedByteIsShifted : Obligations.EveryLoadedByteIsShifted := by
  intro s hm hr hconf hlog
  obtain ⟨n, -, t, hrun, ht⟩ := freeRun_ends hm hr
  refine ⟨n, t, hrun, ht.symm.imp_right ?_⟩
  rintro ⟨ht, hfree, hq⟩
  obtain ⟨hconf', hlog'⟩ := stepsTo_keeps step_keeps_encoded ⟨hconf, hlog⟩ hrun
  have hprefix : s.txLog <+: t.txLog :=
    stepsTo_keeps (P := fun u => s.txLog <+: u.txLog) (fun hp hstep => hp.trans (step_txLog_prefix hstep))
      (List.prefix_refl _) hrun
  have hempty := txq_of_quiescent hconf' hq
  exact ⟨step_of_quiescent ht hfree hq, hempty, hprefix, hlog'.line_of_empty hempty⟩

end Sys2Proof.Machine
end
